-- ==== Sys2Proof/Word.lean ====
section
/-! DEFINITION. The widths of kakunu-core's values: ticks of 32 bits, times, durations and operands of 64 bits,
character codes of 8 bits (00_scope.md rule R9, 20_memory.md rule R71). -/

namespace Sys2Proof

/-- A value of the free-running tick counter, `UInt32`; it wraps at 2^32 (rule R9). -/
abbrev Tick := BitVec 32

/-- A 64-bit operand, response value or payload element (rule R111). -/
abbrev Word := BitVec 64

/-- MonotonicMicros, a 64-bit time in microseconds (rule R9). -/
abbrev Micros := BitVec 64

/-- A stored pulse duration in microseconds, `DUR_W` = 64 bits (rules R14, R43). -/
abbrev Duration := BitVec 64

/-- An 8-bit character code at the encoder's input (rule R108). -/
abbrev CharCode := BitVec 8

end Sys2Proof
end

