-- ==== Sys2Proof/Syntax.lean ====
section
/-! DEFINITION. The operations of kakunu-core: one constructor of `Instr` for each row of the opcode table, the raw
forms that reach the two input ports, and the stimuli by which the environment moves the block. -/

namespace Sys2Proof

/-- The line's level after an edge: `high` is 1, a rising edge, and `low` is 0, a falling edge (rules R21, R113). -/
inductive Level where
  | low
  | high
  deriving DecidableEq, Repr, Inhabited

/-- The configuration and status registers, each named by a selector (10_state.md rule R44). -/
inductive CfgReg where
  | startDur
  | endDur
  | minLen
  | status
  | qcount
  | qdrop
  deriving DecidableEq, Repr, Inhabited

/-- The operations of the block: the twelve commands of 30_encoding.md rule R114 and the edge event of rule R113. -/
inductive Instr where
  | clkStart (refTick : Tick)
  | clkNow
  | clkConv (tick : Tick)
  | clkStop
  | capStart
  | capStop
  | cfgWr (reg : CfgReg) (value : Word)
  | cfgRd (reg : CfgReg)
  | decSubmit (t0 : Micros) (seq : List Duration)
  | decShutdown
  | encEncode (chars : List CharCode)
  | resPop
  | edge (level : Level) (tick : Tick)
  deriving DecidableEq, Repr, Inhabited

/-- A command as it stands on the command port: a header, two operand fields and a payload (rule R111). -/
structure Command where
  hdr : BitVec 16
  a0 : Word
  a1 : Word
  payload : List Word
  deriving DecidableEq, Repr, Inhabited

/-- What an input port carries: a command on the command port, or the 33 bits `{level, tick}` of an event on the
edge port (rules R110, R111, R113). -/
inductive PortWord where
  | cmd (c : Command)
  | event (w : BitVec 33)
  deriving DecidableEq, Repr, Inhabited

/-- The steps the block's own agents take: CLKR's two (rules R158, R159), the worker's four (rules R232 to R235)
and the command port's join completion (rule R249). -/
inductive AgentStep where
  | clkrTimeout
  | clkrWake
  | workerWake
  | workerDecode
  | workerIdle
  | workerExit
  | joinDone
  deriving DecidableEq, Repr, Inhabited

/-- Who moves next: the host or the edge source through its port, an agent of the block, or the external reset
event (20_memory.md rule R73, 70_reset_and_hazards.md rule R340). -/
inductive Action where
  | port (p : PortWord)
  | agent (a : AgentStep)
  | reset
  deriving DecidableEq, Repr, Inhabited

/-- One move of the environment: who moves, and what the tick input reads while the step is taken (rule R59). -/
structure Stimulus where
  tickNow : Tick
  action : Action
  deriving DecidableEq, Repr, Inhabited

end Sys2Proof
end

