-- ==== Sys2Proof/Config.lean ====
section
/-! DEFINITION. The named parameters of 00_scope.md section 4 with the source's values, the parameters an
implementation chooses, and the free values (constants with no body, of which nothing can be proved). -/

namespace Sys2Proof

/-- A capacity an implementation chooses: unbounded (∞), or `bounded n`, which holds `n + 1` entries, so that every
capacity is at least 1 (rule R14). -/
inductive Depth where
  | unbounded
  | bounded (pred : Nat)
  deriving DecidableEq, Repr, Inhabited

/-- The two readings of `MAX_TICK` (rule R14, 90_conflicts.md C1): 2^32, the spec's, and 2^32 − 1, the other. -/
inductive MaxTick where
  | pow32
  | pow32MinusOne
  deriving DecidableEq, Repr, Inhabited

/-- The classification bounds in microseconds, all inclusive (rule R12). -/
structure Bounds where
  shortMin : Nat
  shortMax : Nat
  longMin : Nat
  longMax : Nat
  extraLongMin : Nat
  extraLongMax : Nat
  megaLongMin : Nat
  megaLongMax : Nat
  deriving DecidableEq, Repr, Inhabited

/-- The encoder's durations `T_S`, `T_L`, `T_EL` and `T_ML` (rule R13). -/
structure Pulses where
  short : Duration
  long : Duration
  extraLong : Duration
  megaLong : Duration
  deriving DecidableEq, Repr, Inhabited

/-- The source's numeric literals, each an argument of the steps that read it (10_state.md rule R59,
93_implementation_defined.md). The widths of rules R9 and R14 are the types of Word.lean (log 20). -/
structure Literals where
  /-- `MAX_LEN` (rule R9). -/
  maxLen : Nat
  /-- `DEC_MIN_LEN` (rule R9). -/
  decMinLen : Nat
  /-- `ENC_MAX_DIGITS` (rule R14). -/
  encMaxDigits : Nat
  /-- `REFRESH_PERIOD` (rule R11). -/
  refreshPeriod : Nat
  /-- `DEF_START_DUR` (rule R11). -/
  defStartDur : Duration
  /-- `DEF_END_DUR` (rule R11). -/
  defEndDur : Duration
  /-- `DEF_MIN_LEN` (rule R11). -/
  defMinLen : BitVec 32
  /-- The bounds of rule R12. -/
  bounds : Bounds
  /-- The durations of rule R13. -/
  pulses : Pulses
  /-- The code of the digit character '0' (30_encoding.md rule R108); those of '1' to '3' follow it. -/
  charZero : Nat
  deriving DecidableEq, Repr, Inhabited

/-- The parameters of rules R9 to R14, which an implementation fixes once: the literals and those the source leaves
open. -/
structure Params extends Literals where
  queueDepth : Depth
  resultDepth : Depth
  maxTick : MaxTick
  startAtZeroIsError : Bool
  deriving DecidableEq, Repr, Inhabited

namespace Config

/-- `TICK_MOD`, the modulus of the tick counter (rule R9). -/
abbrev tickMod : Nat := 4294967296

/-- The source's bounds (rule R12). -/
def bounds : Bounds where
  shortMin := 100
  shortMax := 500
  longMin := 900
  longMax := 1800
  extraLongMin := 2000
  extraLongMax := 3200
  megaLongMin := 5000
  megaLongMax := 18446744073709551615

/-- The source's encoder durations (rule R13). -/
def pulses : Pulses where
  short := 250
  long := 1250
  extraLong := 2500
  megaLong := 10000

/-- The source's literals (rules R9, R11 to R14), and 0x30 for the digit character '0', which the spec itself marks as
general knowledge (30_encoding.md rule R108). PRESUMED for the character, unsafe: log 14. That they are fields of `params`
is log 20. -/
def literals : Literals where
  maxLen := 200
  decMinLen := 6
  encMaxDigits := 49
  refreshPeriod := 60000000
  defStartDur := 200
  defEndDur := 5000
  defMinLen := 64
  bounds := bounds
  pulses := pulses
  charZero := 0x30

/-- `QUEUE_DEPTH`, left open (rule R14). A free value, safe: log 6. -/
opaque queueDepth : Depth

/-- `RESULT_DEPTH`, left open (rule R14). A free value, safe: log 6. -/
opaque resultDepth : Depth

/-- `MAX_TICK` and `START_AT_ZERO_IS_ERROR` at the spec's values 2^32 and false (rule R14, 90_conflicts.md C1 and
C2). DESIGN CHOICE of the spec, unsafe: log 7. -/
abbrev maxTick : MaxTick := .pow32
abbrev startAtZeroIsError : Bool := false

/-- The machine's parameters: the spec's values, and the two open capacities. -/
def params : Params where
  toLiterals := literals
  queueDepth := queueDepth
  resultDepth := resultDepth
  maxTick := maxTick
  startAtZeroIsError := startAtZeroIsError

/-- The environment's next move where `State` lists none: a free value for each draw, so that the schedule, the
inputs and the tick are open (rules R59, R76, R306). Safe: log 1. -/
opaque freeStimulus : Nat → Stimulus

/-- The start time handed over by a framer that accumulates without one, which no run reaches (rules R182, R198): a
free value of the sequence and the edge's time. Safe: log 8. -/
opaque missingStart : List Duration → Micros → Micros

end Config

end Sys2Proof
end

