-- ==== Sys2Proof/Machine/Operands.lean ====
section
/-! DEFINITION. The operand forms of a command: how each field is read and what makes a field malformed
(30_encoding.md rules R111, R112, R115, R117). The decoder and the well-formedness check both use them. -/

namespace Sys2Proof.Machine

open Sys2Proof

/-- A 32-bit operand is `a[31:0]` and requires `a[63:32] = 0` (rule R112). -/
def operand32 (a : Word) : Option (BitVec 32) :=
  if a.toNat < 2 ^ 32 then some (a.setWidth 32) else none

/-- A 1-bit operand is bit 0 of its field and requires the rest to be 0 (rule R112). No opcode of rule R114 has one;
the form is kept because the rule states it. -/
def operand1 (a : Word) : Option (BitVec 1) :=
  if a.toNat < 2 then some (a.setWidth 1) else none

/-- A payload element that is a character code is below 256 (rules R108, R117). -/
def operandChar (a : Word) : Option CharCode :=
  if a.toNat < 256 then some (a.setWidth 8) else none

/-- A payload of character codes: every element must be one (rule R117). -/
def operandChars : List Word → Option (List CharCode)
  | [] => some []
  | a :: as =>
    match operandChar a, operandChars as with
    | some c, some cs => some (c :: cs)
    | _, _ => none

/-- A field the opcode does not use must be 0 (rule R112). -/
def unusedField (a : Word) : Bool := a == 0

/-- A payload the opcode does not use must be `[]` (rule R112). -/
def unusedPayload (p : List Word) : Bool := p.isEmpty

/-- The registers CFG.WR may select (rule R115, 10_state.md rule R44). -/
def regWritable : CfgReg → Bool
  | .startDur => true
  | .endDur => true
  | .minLen => true
  | .status => false
  | .qcount => false
  | .qdrop => false

/-- The value fits the register: MIN_LEN is 32 bits wide and requires `a0[63:32] = 0` (rule R117); the two duration
thresholds take every 64-bit value (10_state.md rule R45). -/
def regFits : CfgReg → Word → Bool
  | .startDur, _ => true
  | .endDur, _ => true
  | .minLen, v => (operand32 v).isSome
  | .status, _ => true
  | .qcount, _ => true
  | .qdrop, _ => true

/-- What CFG.WR may do: a writable register, with a value that fits it (rules R115, R117). -/
def writeLegal (reg : CfgReg) (value : Word) : Bool := regWritable reg && regFits reg value

/-- DEC.SUBMIT takes at most `MAX_LEN` durations (rule R117). -/
def submitLegal (p : Params) (seq : List Duration) : Bool := decide (seq.length ≤ p.maxLen)

/-- ENC.ENCODE takes at most `ENC_MAX_DIGITS` characters (rule R117). -/
def encodeLegal (p : Params) (chars : List CharCode) : Bool := decide (chars.length ≤ p.encMaxDigits)

end Sys2Proof.Machine
end

