-- ==== Sys2Proof/WellFormed.lean ====
section
/-! DEFINITION. Which operations a port can carry: the conditions of 30_encoding.md rules R115 and R117 that the
operand types of `Instr` do not already carry. -/

namespace Sys2Proof

/-- The well-formedness of an operation (rules R115, R117). Ticks, levels, registers and character codes are in range
by their types; the payload lengths, the access of the selected register and MIN_LEN's width are checked here. -/
def Instr.wellFormed (p : Params) : Instr → Bool
  | .clkStart _ => true
  | .clkNow => true
  | .clkConv _ => true
  | .clkStop => true
  | .capStart => true
  | .capStop => true
  | .cfgWr reg value => Machine.writeLegal reg value
  | .cfgRd _ => true
  | .decSubmit _ seq => Machine.submitLegal p seq
  | .decShutdown => true
  | .encEncode chars => Machine.encodeLegal p chars
  | .resPop => true
  | .edge _ _ => true

/-- The operation is well formed for a block with given parameters. -/
abbrev WellFormed (p : Params) (i : Instr) : Prop := i.wellFormed p = true

end Sys2Proof
end

