-- ==== Sys2Proof/Decode.lean ====
section
/-! DEFINITION. The decoder of the two input ports, total on every command tuple and every edge word and rejecting by
name, and the encoder beside it (30_encoding.md rules R111 to R118, R127). -/

namespace Sys2Proof

/-- The defined opcodes, in the order of rule R114's table. -/
inductive Opcode where
  | clkStart
  | clkNow
  | clkConv
  | clkStop
  | capStart
  | capStop
  | cfgWr
  | cfgRd
  | decSubmit
  | decShutdown
  | encEncode
  | resPop
  deriving DecidableEq, Repr

/-- Why a command is answered ILLEGAL: a reserved opcode (rule R116), or one of rule R117's ways of being malformed. -/
inductive Illegal where
  | reservedOpcode (op : BitVec 8)
  | reservedSelector (sel : BitVec 8)
  | unusedFieldSet
  | operandTooWide
  | payloadTooLong
  | charTooWide
  deriving DecidableEq, Repr

/-- The opcode's number (rule R114). -/
def Opcode.code : Opcode → BitVec 8
  | .clkStart => 0x01
  | .clkNow => 0x02
  | .clkConv => 0x03
  | .clkStop => 0x04
  | .capStart => 0x10
  | .capStop => 0x11
  | .cfgWr => 0x20
  | .cfgRd => 0x21
  | .decSubmit => 0x30
  | .decShutdown => 0x31
  | .encEncode => 0x40
  | .resPop => 0x50

/-- Every defined opcode (rule R114). -/
def allOpcodes : List Opcode :=
  [.clkStart, .clkNow, .clkConv, .clkStop, .capStart, .capStop, .cfgWr, .cfgRd, .decSubmit, .decShutdown, .encEncode,
    .resPop]

/-- The opcode of a number; `none` is a reserved opcode (rule R116). -/
def opcodeOf (op : BitVec 8) : Option Opcode := allOpcodes.find? fun o => o.code == op

/-- A register's selector (10_state.md rule R44). -/
def CfgReg.sel : CfgReg → BitVec 8
  | .startDur => 0x00
  | .endDur => 0x01
  | .minLen => 0x02
  | .status => 0x10
  | .qcount => 0x11
  | .qdrop => 0x12

/-- Every register of 10_state.md rule R44's table. -/
def allCfgRegs : List CfgReg := [.startDur, .endDur, .minLen, .status, .qcount, .qdrop]

/-- The register of a selector; `none` is a reserved selector (rule R115). -/
def cfgRegOf (sel : BitVec 8) : Option CfgReg := allCfgRegs.find? fun r => r.sel == sel

/-- The header's `op` field, bits 15:8 (rule R111). -/
def Command.op (c : Command) : BitVec 8 := c.hdr.extractLsb' 8 8

/-- The header's `sel` field, bits 7:0 (rule R111). -/
def Command.sel (c : Command) : BitVec 8 := c.hdr.extractLsb' 0 8

/-- `hdr = op << 8 | sel` (rule R111). -/
def header (op : Opcode) (sel : BitVec 8) : BitVec 16 := op.code ++ sel

/-- The line's level as bit 32 of an edge event: 1 is high (rule R113). -/
def Level.bit : Level → BitVec 1
  | .low => 0
  | .high => 1

/-- The level a bit stands for (rule R113). -/
def levelOf (b : BitVec 1) : Level := if b = 1 then .high else .low

/-- Go on only if the check holds; otherwise the command is malformed for the reason given (rule R117). -/
def require (ok : Bool) (why : Illegal) (next : Except Illegal Instr) : Except Illegal Instr :=
  if ok then next else .error why

/-- `sel` must be 0x00 for every opcode but CFG.WR and CFG.RD (rule R115). -/
def noSelector (c : Command) (next : Except Illegal Instr) : Except Illegal Instr :=
  require (c.sel == 0) (.reservedSelector c.sel) next

/-- A command with no operand: selector, both fields and the payload are unused (rules R112, R115). -/
def noOperands (c : Command) (i : Instr) : Except Illegal Instr :=
  noSelector c
    (require (Machine.unusedField c.a0 && Machine.unusedField c.a1 && Machine.unusedPayload c.payload) .unusedFieldSet
      (.ok i))

/-- A command whose one operand is a tick, `a0[31:0]` (rules R112, R114). -/
def tickOperand (c : Command) (mk : Tick → Instr) : Except Illegal Instr :=
  noSelector c
    (require (Machine.unusedField c.a1 && Machine.unusedPayload c.payload) .unusedFieldSet
      (match Machine.operand32 c.a0 with
      | some t => .ok (mk t)
      | none => .error .operandTooWide))

/-- CFG.WR: a writable register, `value = a0` (rules R114, R115, R117). -/
def cfgWrOperands (c : Command) : Except Illegal Instr :=
  match cfgRegOf c.sel with
  | none => .error (.reservedSelector c.sel)
  | some reg =>
    require (Machine.regWritable reg) (.reservedSelector c.sel)
      (require (Machine.unusedField c.a1 && Machine.unusedPayload c.payload) .unusedFieldSet
        (require (Machine.regFits reg c.a0) .operandTooWide (.ok (.cfgWr reg c.a0))))

/-- CFG.RD: any register of 10_state.md rule R44 (rules R114, R115). -/
def cfgRdOperands (c : Command) : Except Illegal Instr :=
  match cfgRegOf c.sel with
  | none => .error (.reservedSelector c.sel)
  | some reg =>
    require (Machine.unusedField c.a0 && Machine.unusedField c.a1 && Machine.unusedPayload c.payload) .unusedFieldSet
      (.ok (.cfgRd reg))

/-- DEC.SUBMIT: `t0 = a0`, durations in the payload, at most `MAX_LEN` of them (rules R114, R117). -/
def submitOperands (p : Params) (c : Command) : Except Illegal Instr :=
  noSelector c
    (require (Machine.unusedField c.a1) .unusedFieldSet
      (require (Machine.submitLegal p c.payload) .payloadTooLong (.ok (.decSubmit c.a0 c.payload))))

/-- ENC.ENCODE: character codes in the payload, at most `ENC_MAX_DIGITS`, each below 256 (rules R114, R117). -/
def encodeOperands (p : Params) (c : Command) : Except Illegal Instr :=
  noSelector c
    (require (Machine.unusedField c.a0 && Machine.unusedField c.a1) .unusedFieldSet
      (match Machine.operandChars c.payload with
      | some cs => require (Machine.encodeLegal p cs) .payloadTooLong (.ok (.encEncode cs))
      | none => .error .charTooWide))

/-- The operands of each opcode (rule R114). -/
def decodeOperands (p : Params) : Opcode → Command → Except Illegal Instr
  | .clkStart, c => tickOperand c .clkStart
  | .clkNow, c => noOperands c .clkNow
  | .clkConv, c => tickOperand c .clkConv
  | .clkStop, c => noOperands c .clkStop
  | .capStart, c => noOperands c .capStart
  | .capStop, c => noOperands c .capStop
  | .cfgWr, c => cfgWrOperands c
  | .cfgRd, c => cfgRdOperands c
  | .decSubmit, c => submitOperands p c
  | .decShutdown, c => noOperands c .decShutdown
  | .encEncode, c => encodeOperands p c
  | .resPop, c => noOperands c .resPop

/-- The command decoder, in the order of rule R118: the opcode is reserved, the command is malformed, or the command is
well formed. -/
def decodeCommand (p : Params) (c : Command) : Except Illegal Instr :=
  match opcodeOf c.op with
  | none => .error (.reservedOpcode c.op)
  | some op => decodeOperands p op c

/-- Every 33-bit value is a legal edge event: level in bit 32, tick in bits 31:0 (rule R113). -/
def decodeEvent (w : BitVec 33) : Instr := .edge (levelOf (w.extractLsb' 32 1)) (w.extractLsb' 0 32)

/-- The decoder of both ports, for a block with given parameters. -/
def decode (p : Params) : PortWord → Except Illegal Instr
  | .cmd c => decodeCommand p c
  | .event w => .ok (decodeEvent w)

/-- A command whose operand fields and payload are all unused. -/
def plainCommand (op : Opcode) (sel : BitVec 8) : PortWord :=
  .cmd { hdr := header op sel, a0 := 0, a1 := 0, payload := [] }

/-- The encoder: the port word of an operation, from rules R111 to R114. -/
def encode : Instr → PortWord
  | .clkStart t => .cmd { hdr := header .clkStart 0, a0 := t.setWidth 64, a1 := 0, payload := [] }
  | .clkNow => plainCommand .clkNow 0
  | .clkConv t => .cmd { hdr := header .clkConv 0, a0 := t.setWidth 64, a1 := 0, payload := [] }
  | .clkStop => plainCommand .clkStop 0
  | .capStart => plainCommand .capStart 0
  | .capStop => plainCommand .capStop 0
  | .cfgWr reg v => .cmd { hdr := header .cfgWr reg.sel, a0 := v, a1 := 0, payload := [] }
  | .cfgRd reg => plainCommand .cfgRd reg.sel
  | .decSubmit t0 seq => .cmd { hdr := header .decSubmit 0, a0 := t0, a1 := 0, payload := seq }
  | .decShutdown => plainCommand .decShutdown 0
  | .encEncode cs =>
    .cmd { hdr := header .encEncode 0, a0 := 0, a1 := 0, payload := cs.map fun c => c.setWidth 64 }
  | .resPop => plainCommand .resPop 0
  | .edge level tick => .event (level.bit ++ tick)

/-- A command row of the opcode table: a header `h` selects it when `h & mask = pattern` (rule R127). -/
structure OpRow where
  mnemonic : String
  mask : BitVec 16
  pattern : BitVec 16
  deriving DecidableEq, Repr

/-- The twelve command rows of opcode_table.json, as the table has them (rule R127). -/
def opTable : List OpRow :=
  [⟨"CLK.START", 0xFFFF, 0x0100⟩, ⟨"CLK.NOW", 0xFFFF, 0x0200⟩, ⟨"CLK.CONV", 0xFFFF, 0x0300⟩,
    ⟨"CLK.STOP", 0xFFFF, 0x0400⟩, ⟨"CAP.START", 0xFFFF, 0x1000⟩, ⟨"CAP.STOP", 0xFFFF, 0x1100⟩,
    ⟨"CFG.WR", 0xFF00, 0x2000⟩, ⟨"CFG.RD", 0xFF00, 0x2100⟩, ⟨"DEC.SUBMIT", 0xFFFF, 0x3000⟩,
    ⟨"DEC.SHUTDOWN", 0xFFFF, 0x3100⟩, ⟨"ENC.ENCODE", 0xFFFF, 0x4000⟩, ⟨"RES.POP", 0xFFFF, 0x5000⟩]

/-- The header selects the row (rule R127). -/
def OpRow.selects (r : OpRow) (h : BitVec 16) : Bool := h &&& r.mask == r.pattern

/-- The mnemonic of an operation, as opcode_table.json spells it. -/
def Instr.mnemonic : Instr → String
  | .clkStart _ => "CLK.START"
  | .clkNow => "CLK.NOW"
  | .clkConv _ => "CLK.CONV"
  | .clkStop => "CLK.STOP"
  | .capStart => "CAP.START"
  | .capStop => "CAP.STOP"
  | .cfgWr _ _ => "CFG.WR"
  | .cfgRd _ => "CFG.RD"
  | .decSubmit _ _ => "DEC.SUBMIT"
  | .decShutdown => "DEC.SHUTDOWN"
  | .encEncode _ => "ENC.ENCODE"
  | .resPop => "RES.POP"
  | .edge _ _ => "EDGE"

/-- The port word of a number that the opcode table numbers from bit 0: up to 32 bits a command, its header in bits
15:0, `a0` in bits 79:16 and nothing above; wider than 32 bits an edge event, in bits 32:0. `none` where the number
does not fit the form. DESIGN CHOICE (the spec gives no bit numbering beyond the header and the event), safe: log 9. -/
def tablePortWord (nbits w : Nat) : Option PortWord :=
  if nbits ≤ 32 then
    if w < 2 ^ 80 then some (.cmd { hdr := BitVec.ofNat 16 w, a0 := BitVec.ofNat 64 (w / 2 ^ 16), a1 := 0, payload := [] })
    else none
  else if w < 2 ^ 33 then some (.event (BitVec.ofNat 33 w))
  else none

/-- The instruction the decoder reads from a row's bits, with the spec's parameters; `none` where it refuses. -/
def decodeTableWord (nbits w : Nat) : Option Instr :=
  match tablePortWord nbits w with
  | none => none
  | some p =>
    match decode Config.params p with
    | .ok i => some i
    | .error _ => none

end Sys2Proof
end

