-- ==== Sys2Proof/Machine/Types.lean ====
section
/-! DEFINITION. The data kakunu-core holds and reports: timing symbols, sub-bits and digits, decode errors, result
records, statuses and responses (00_scope.md rule R21, 30_encoding.md rules R100 to R103, R119 to R121, R128). -/

namespace Sys2Proof.Machine

open Sys2Proof

/-- The classification buckets of a pulse duration (rule R100). -/
inductive Symbol where
  | short
  | long
  | extraLong
  | megaLong
  deriving DecidableEq, Repr

/-- The intermediate value read from a symbol pair (rule R102). -/
inductive SubBit where
  | zero
  | one
  deriving DecidableEq, Repr

/-- What a symbol pair means to the decoder's sub-bit scan (rule R102). -/
inductive PairMeaning where
  | subBit (b : SubBit)
  | endMarker
  | invalid
  deriving DecidableEq, Repr

/-- A quaternary digit, 0 to 3 (rule R103). -/
abbrev Digit := Fin 4

/-- The five reasons a frame fails to decode (rule R121). -/
inductive DecodeError where
  | insufficientData
  | invalidTimings
  | startMarkerNotFound
  | invalidSignals
  | endMarkerNotFound
  deriving DecidableEq, Repr

/-- A record of the result channel: the source's `OnResult(message)` or `OnError(reason)` (rule R120). The record's code
and digits are `ResultRec.code` and `ResultRec.digits`. -/
inductive ResultRec where
  | message (digits : List Digit)
  | error (e : DecodeError)
  deriving DecidableEq, Repr

/-- The status of a command's response (rule R119). -/
inductive Status where
  | ok
  | illegal
  | clockNotStarted
  | clockAlreadyStarted
  | decoderStopped
  | invalidBits
  | empty
  | queueFull
  deriving DecidableEq, Repr

/-- The one response of a command (rule R128). -/
structure Response where
  status : Status
  value : Word
  payload : List Word
  deriving DecidableEq, Repr

/-- The decode worker's control state (10_state.md rule R52). -/
inductive WorkerState where
  | waiting
  | draining
  | exited
  deriving DecidableEq, Repr

/-- An entry of the decode queue: a pulse-duration sequence and its start time (10_state.md rule R49). -/
structure QueueEntry where
  seq : List Duration
  t0 : Micros
  deriving DecidableEq, Repr

end Sys2Proof.Machine
end

