-- ==== Sys2Proof/Machine/Codes.lean ====
section
/-! DEFINITION. The numeric codes and diagnostic strings of the block's names (30_encoding.md rules R101, R109, R119 to
R121), and what a result record shows the host. -/

namespace Sys2Proof.Machine

open Sys2Proof

/-- The 2-bit code of a timing symbol, which no port carries (rule R101). -/
def symbolCode : Symbol → BitVec 2
  | .short => 0b00
  | .long => 0b01
  | .extraLong => 0b10
  | .megaLong => 0b11

/-- The 8-bit code of a response status (rule R119). -/
def statusCode : Status → BitVec 8
  | .ok => 0x00
  | .illegal => 0x01
  | .clockNotStarted => 0x02
  | .clockAlreadyStarted => 0x03
  | .decoderStopped => 0x04
  | .invalidBits => 0x05
  | .empty => 0x06
  | .queueFull => 0x07

/-- The 8-bit code of a decode error (rule R121). -/
def errorCode : DecodeError → BitVec 8
  | .insufficientData => 1
  | .invalidTimings => 2
  | .startMarkerNotFound => 3
  | .invalidSignals => 4
  | .endMarkerNotFound => 5

/-- The source's diagnostic string of a decode error (rule R121). -/
def diagnostic : DecodeError → String
  | .insufficientData => "insufficient data"
  | .invalidTimings => "invalid timings"
  | .startMarkerNotFound => "start marker not found"
  | .invalidSignals => "invalid signals received"
  | .endMarkerNotFound => "end marker not found"

/-- The source's string for INVALID_BITS (rule R119). -/
def invalidBitsDiagnostic : String := "invalid bits"

/-- A record's code: 0 for a message, else the error's (rule R120). -/
def recordCode : ResultRec → BitVec 8
  | .message _ => 0
  | .error e => errorCode e

/-- A record's digits: the message's, and none for an error (rule R120). -/
def recordDigits : ResultRec → List Digit
  | .message ds => ds
  | .error _ => []

/-- A digit as a payload element (rule R109). -/
def digitWord (d : Digit) : Word := BitVec.ofNat 64 d.val

/-- The character code of a digit: the code of '0' plus v (rule R109). -/
def digitChar (charZero : Nat) (d : Digit) : CharCode := BitVec.ofNat 8 (charZero + d.val)

end Sys2Proof.Machine
end

