-- ==== Sys2Proof/Machine/Frames.lean ====
section
/-! DEFINITION. The pure functions between pulse durations and messages: the classifier (30_encoding.md rule R100), the
decode algorithm (43_decoder.md rules R238 to R245) and the encoder (44_encoder.md rule R281). -/

namespace Sys2Proof.Machine

open Sys2Proof

/-- Four disjoint inclusive ranges with deliberate gaps between them (30_encoding.md rule R100). -/
def classify (b : Bounds) (d : Duration) : Option Symbol :=
  let n := d.toNat
  if b.shortMin ≤ n ∧ n ≤ b.shortMax then some .short
  else if b.longMin ≤ n ∧ n ≤ b.longMax then some .long
  else if b.extraLongMin ≤ n ∧ n ≤ b.extraLongMax then some .extraLong
  else if b.megaLongMin ≤ n ∧ n ≤ b.megaLongMax then some .megaLong
  else none

/-- Step 2: every duration is classified; one that is not rejects the frame (43_decoder.md rule R240). -/
def classifyAll (b : Bounds) : List Duration → Option (List Symbol)
  | [] => some []
  | d :: ds =>
    match classify b d, classifyAll b ds with
    | some a, some as => some (a :: as)
    | _, _ => none

/-- The pairs at even offsets; a trailing single symbol is no pair (43_decoder.md rules R241, R243). -/
def symbolPairs : List Symbol → List (Symbol × Symbol)
  | a :: b :: rest => (a, b) :: symbolPairs rest
  | [_] => []
  | [] => []

/-- The start marker is the pair (SHORT, EXTRALONG) (30_encoding.md rule R104). -/
def isStartMarker : Symbol × Symbol → Bool
  | (a, b) => a == .short && b == .extraLong

/-- The sub-bit table (30_encoding.md rule R102). -/
def pairMeaning : Symbol × Symbol → PairMeaning
  | (.short, .short) => .subBit .zero
  | (.short, .long) => .subBit .one
  | (.short, .megaLong) => .endMarker
  | (.short, .extraLong) => .invalid
  | (.long, _) => .invalid
  | (.extraLong, _) => .invalid
  | (.megaLong, _) => .invalid

/-- Step 3: the first start marker among the pairs; the answer is how many pairs precede it and the pairs after it
(43_decoder.md rule R241). -/
def findStart : List (Symbol × Symbol) → Option (Nat × List (Symbol × Symbol))
  | [] => none
  | p :: ps =>
    if isStartMarker p then some (0, ps)
    else
      match findStart ps with
      | some (k, rest) => some (k + 1, rest)
      | none => none

/-- Step 4: the sub-bits up to the end marker; the first pair outside the table is InvalidSignals, and running out of
pairs is EndMarkerNotFound (43_decoder.md rule R243). -/
def scanSubBits : List (Symbol × Symbol) → Except DecodeError (List SubBit)
  | [] => .error .endMarkerNotFound
  | p :: ps =>
    match pairMeaning p with
    | .endMarker => .ok []
    | .invalid => .error .invalidSignals
    | .subBit b =>
      match scanSubBits ps with
      | .ok bs => .ok (b :: bs)
      | .error e => .error e

/-- The digit table (30_encoding.md rule R103). -/
def quat : SubBit → SubBit → Digit
  | .zero, .one => 0
  | .one, .zero => 1
  | .zero, .zero => 2
  | .one, .one => 3

/-- Step 5: sub-bits two at a time; a trailing unpaired one is discarded (43_decoder.md rule R244). -/
def pairDigits : List SubBit → List Digit
  | a :: b :: rest => quat a b :: pairDigits rest
  | [_] => []
  | [] => []

/-- The decode function (43_decoder.md rule R238): the first step that fails decides the error. The parameters
are those of rules R239, R240 and R242. -/
def decodeFrame (p : Params) (seq : List Duration) : ResultRec :=
  if seq.length < p.decMinLen then .error .insufficientData
  else
    match classifyAll p.bounds seq with
    | none => .error .invalidTimings
    | some sym =>
      match findStart (symbolPairs sym) with
      | none => .error .startMarkerNotFound
      | some (k, rest) =>
        if k = 0 ∧ p.startAtZeroIsError = true then .error .startMarkerNotFound
        else
          match scanSubBits rest with
          | .error e => .error e
          | .ok bits => .message (pairDigits bits)

/-- A character code is one of '0' to '3' (30_encoding.md rule R108). -/
def isDigitChar (charZero : Nat) (c : CharCode) : Bool := decide (charZero ≤ c.toNat ∧ c.toNat ≤ charZero + 3)

/-- The digit of a valid code is `c - 0x30`, its distance from the code of '0' (30_encoding.md rule R108). -/
def charDigit (charZero : Nat) (c : CharCode) : Digit := Fin.ofNat 4 (c.toNat - charZero)

/-- The index of the first invalid character, which the whole-string check reports (44_encoder.md rule R281). -/
def firstInvalid (charZero : Nat) : List CharCode → Option Nat
  | [] => none
  | c :: cs =>
    if isDigitChar charZero c then
      match firstInvalid charZero cs with
      | some i => some (i + 1)
      | none => none
    else some 0

/-- The four durations of a digit (30_encoding.md rule R106). -/
def digitPattern (u : Pulses) : Digit → List Duration
  | 0 => [u.short, u.short, u.short, u.long]
  | 1 => [u.short, u.long, u.short, u.short]
  | 2 => [u.short, u.short, u.short, u.short]
  | 3 => [u.short, u.long, u.short, u.long]

/-- The start pair (Short, ExtraLong) (30_encoding.md rule R106). -/
def startPair (u : Pulses) : List Duration := [u.short, u.extraLong]

/-- The end pair (Short, MegaLong) (30_encoding.md rule R106). -/
def endPair (u : Pulses) : List Duration := [u.short, u.megaLong]

/-- The durations of a digit string: start pair, a pattern for each digit, end pair (44_encoder.md rule R281). -/
def encodeDigits (u : Pulses) (ds : List Digit) : List Duration :=
  startPair u ++ ds.flatMap (digitPattern u) ++ endPair u

/-- The encode function (44_encoder.md rule R281): the character check runs over the whole string before any output is
built; `.error i` is `invalid(i)`. -/
def encodeChars (p : Params) (cs : List CharCode) : Except Nat (List Duration) :=
  match firstInvalid p.charZero cs with
  | some i => .error i
  | none => .ok (encodeDigits p.pulses (cs.map (charDigit p.charZero)))

end Sys2Proof.Machine
end

