-- ==== Sys2Proof/Machine/State.lean ====
section
/-! DEFINITION. The state of kakunu-core: the record S of 10_state.md rule R32 in its groups, the model's own fields for
the environment and the implementation's parameters, the (empty) faults, the refusals, and the state after reset. -/

namespace Sys2Proof.Machine

open Sys2Proof

/-- The clock's group (10_state.md rules R33 to R38). -/
structure ClkState where
  started : Bool
  lastTick : Tick
  total : Micros
  refreshRunning : Bool
  refreshStop : Bool
  refreshEv : Bool
  deriving DecidableEq, Repr

/-- The edge-capture framer's group (10_state.md rules R39 to R43). -/
structure CapState where
  enabled : Bool
  lastLevel : Option Level
  lastTime : Micros
  start : Option Micros
  buf : List Duration
  deriving DecidableEq, Repr

/-- The three thresholds (10_state.md rule R45). STATUS, QCOUNT and QDROP are computed (rules R46 to R48). -/
structure CfgState where
  startDur : Duration
  endDur : Duration
  minLen : BitVec 32
  deriving DecidableEq, Repr

/-- The decoder's group: the queue, its single-slot event, the stop flag, the worker and the drop count (10_state.md
rules R49 to R53). -/
structure DecState where
  queue : List QueueEntry
  qEv : Bool
  stop : Bool
  worker : WorkerState
  qDrop : BitVec 32
  deriving DecidableEq, Repr

/-- The channels to the host: the result channel and the join flag (10_state.md rules R54, R55), and the response the
command port shows (30_encoding.md rule R128): the answer to the last command accepted, or `none` before the first one
and while a DEC.SHUTDOWN is still unanswered (log 5). -/
structure ChanState where
  res : List ResultRec
  joinPending : Bool
  response : Option Response
  deriving DecidableEq, Repr

/-- The MODEL's own fields for what stands outside the block: what the tick input reads in this step (10_state.md rule
R59, log 3), what happens next, oldest first (log 1), and the counter of the free stimuli drawn when that list is empty
(log 4). -/
structure EnvState where
  tickNow : Tick
  inputs : List Stimulus
  draws : Nat
  deriving DecidableEq, Repr

/-- The whole state: the five groups of 10_state.md rule R32, the environment, and the block's parameters, which
no step changes (10_state.md rule R59, 00_scope.md rules R9 to R14, logs 6, 7 and 20). -/
structure State where
  clk : ClkState
  cap : CapState
  cfg : CfgState
  dec : DecState
  chan : ChanState
  env : EnvState
  params : Params
  deriving DecidableEq, Repr

/-- The reasons a step may stop the machine: none. The block takes no traps and raises no exceptions, and no error
leaves it stuck (60_exceptions.md rules R300, R318); nothing raises a fault, which is safe (log 15). -/
inductive Fault where
  deriving DecidableEq, Repr

/-- The reasons the model gives an operation no meaning. -/
inductive Refusal where
  /-- Raised by an arm of `exec` whose operation has no meaning yet; no arm of this model raises it. Safe. -/
  | notModelled (mnemonic : String)
  deriving DecidableEq, Repr

/-- A block with given parameters right after reset (70_reset_and_hazards.md rule R341): the thresholds are the
parameters' defaults (10_state.md rule R45). `chan.response` and the `env` fields are the model's own (logs 1, 3 to 5). -/
def State.ofParams (p : Params) : State where
  clk :=
    { started := false, lastTick := 0, total := 0, refreshRunning := false, refreshStop := false, refreshEv := false }
  cap := { enabled := false, lastLevel := none, lastTime := 0, start := none, buf := [] }
  cfg := { startDur := p.defStartDur, endDur := p.defEndDur, minLen := p.defMinLen }
  dec := { queue := [], qEv := false, stop := false, worker := .waiting, qDrop := 0 }
  chan := { res := [], joinPending := false, response := none }
  env := { tickNow := 0, inputs := [], draws := 0 }
  params := p

/-- The machine right after reset, with the spec's parameters (logs 6, 7, 14 and 20). -/
def State.reset : State := State.ofParams Config.params

end Sys2Proof.Machine
end

