-- ==== Sys2Proof/Machine/Ops.lean ====
section
/-! DEFINITION. The named operations that the meanings share: responding, the clock's sample and conversion, the
single-slot events, the queue and the result channel, and drawing the environment's next stimulus. The block has no
traps (60_exceptions.md rule R300), so answering an error status (`respond`) is its whole error mechanism; there is no
exception entry and no return from one (rules R308, R309). -/

namespace Sys2Proof.Machine

open Sys2Proof

/-- `respond(status, value, payload)`: the one response of a command, on the command port (30_encoding.md rule R128). -/
def respond (status : Status) (value : Word) (payload : List Word) (s : State) : State :=
  { s with chan := { s.chan with response := some { status, value, payload } } }

/-- `respond(OK, 0, [])`, the answer of a command whose rule says no other (30_encoding.md rule R128). -/
def respondOk (s : State) : State := respond .ok 0 [] s

/-- An error response: value 0 and an empty payload (60_exceptions.md rule R301; INVALID_BITS, which carries an index,
uses `respond`). -/
def respondError (status : Status) (s : State) : State := respond status 0 [] s

/-- The value of `MAX_TICK` (41_clock.md rule R150, 90_conflicts.md C1). -/
def maxTickValue : MaxTick → Nat
  | .pow32 => Config.tickMod
  | .pow32MinusOne => Config.tickMod - 1

/-- `wrapsub32(new, old)`, the ticks from `old` forward to `new`, in exact arithmetic (41_clock.md rule R150). -/
def wrapsub32 (m : MaxTick) (new old : Tick) : Nat :=
  if new.toNat < old.toNat then maxTickValue m - old.toNat + new.toNat else new.toNat - old.toNat

/-- `clk_now(S, t)` as the state it leaves; its value is the `total` there (41_clock.md rule R153). The sum is modulo
2^64. -/
def clkNow (t : Tick) (s : State) : State :=
  { s with
    clk :=
      { s.clk with
        total := s.clk.total + BitVec.ofNat 64 (wrapsub32 s.params.maxTick t s.clk.lastTick)
        lastTick := t } }

/-- `clk_conv(S, tick)` (41_clock.md rule R155). No state is written; the difference is modulo 2^64. -/
def clkConv (tick : Tick) (s : State) : Micros :=
  s.clk.total - BitVec.ofNat 64 (wrapsub32 s.params.maxTick s.clk.lastTick tick)

/-- The clock sampled from the tick input (10_state.md rule R59). -/
def sampleClock (s : State) : State := clkNow s.env.tickNow s

/-- `clk_edge_time(S, tick)` as its value: the conversion after the sample of `sampleClock` (41_clock.md rule R156). -/
def clkEdgeTime (tick : Tick) (s : State) : Micros := clkConv tick (sampleClock s)

/-- `SIGNAL(q_ev)` (20_memory.md rule R82). -/
def signalQueue (s : State) : State := { s with dec := { s.dec with qEv := true } }

/-- `WAIT(q_ev)` as its effect; it is enabled only when the event is set (20_memory.md rule R83). -/
def waitQueue (s : State) : State := { s with dec := { s.dec with qEv := false } }

/-- `SIGNAL(refresh_ev)` (20_memory.md rule R82). -/
def signalRefresh (s : State) : State := { s with clk := { s.clk with refreshEv := true } }

/-- `WAIT(refresh_ev)` as its effect; it is enabled only when the event is set (20_memory.md rule R83). -/
def waitRefresh (s : State) : State := { s with clk := { s.clk with refreshEv := false } }

/-- A channel of `n` entries has room for one more; an empty one always has, since a capacity is at least 1
(00_scope.md rule R14). -/
def hasRoom (d : Depth) : Nat → Bool
  | 0 => true
  | n + 1 =>
    match d with
    | .unbounded => true
    | .bounded p => decide (n < p)

/-- The drop count goes up by one and saturates at 2^32 − 1 (10_state.md rule R53). -/
def saturatingSucc (n : BitVec 32) : BitVec 32 := if n.toNat < 2 ^ 32 - 1 then n + 1 else n

/-- A frame refused by the queue is counted (43_decoder.md rule R231). -/
def countDrop (s : State) : State := { s with dec := { s.dec with qDrop := saturatingSucc s.dec.qDrop } }

/-- An entry at the queue's tail, and the wakeup (43_decoder.md rule R231). -/
def appendEntry (e : QueueEntry) (s : State) : State :=
  signalQueue { s with dec := { s.dec with queue := s.dec.queue ++ [e] } }

/-- The status `dec_enqueue` returns, decided before it changes anything (43_decoder.md rule R231). -/
def enqueueStatus (s : State) : Status :=
  if s.dec.stop then .decoderStopped
  else if hasRoom s.params.queueDepth s.dec.queue.length then .ok
  else .queueFull

/-- `dec_enqueue(S, seq, t0)`, shared by DEC.SUBMIT and CAP's hand-off; it never blocks (43_decoder.md rule R231). Its
returned status is `enqueueStatus`. -/
def decEnqueue (seq : List Duration) (t0 : Micros) (s : State) : State :=
  if s.dec.stop then countDrop s
  else if hasRoom s.params.queueDepth s.dec.queue.length then appendEntry { seq, t0 } s
  else countDrop s

/-- `emit(rec)` (43_decoder.md rule R251). -/
def emit (r : ResultRec) (s : State) : State := { s with chan := { s.chan with res := s.chan.res ++ [r] } }

/-- The stimulus that comes next: the oldest listed one, else a free one (10_state.md rule R59, log 1). -/
def nextStimulus (s : State) : Stimulus :=
  match s.env.inputs with
  | st :: _ => st
  | [] => Config.freeStimulus s.env.draws

/-- The environment after its next stimulus is taken: the tick input reads what the stimulus says (log 3). -/
def advanceEnv (e : EnvState) (t : Tick) : EnvState :=
  match e.inputs with
  | _ :: rest => { tickNow := t, inputs := rest, draws := e.draws }
  | [] => { tickNow := t, inputs := [], draws := e.draws + 1 }

/-- The state in which the next stimulus acts. -/
def takeStimulus (s : State) : State := { s with env := advanceEnv s.env (nextStimulus s).tickNow }

end Sys2Proof.Machine
end

