-- ==== Sys2Proof/Machine/Agents.lean ====
section
/-! DEFINITION. The steps the host does not command: CLKR's (41_clock.md rules R158, R159), the worker's (43_decoder.md
rules R232 to R236), the join completion (43_decoder.md rule R249) and the reset event (70_reset_and_hazards.md rule
R340). Each has an enabling condition and an effect; a step that is scheduled while it is not enabled holds (log 2). -/

namespace Sys2Proof.Machine

open Sys2Proof

/-- The enabling condition of each step (41_clock.md rules R158, R159, 43_decoder.md rules R232 to R235, R249). Once
`dec_stop` is set, WORKER.DECODE and WORKER.EXIT may both be enabled (43_decoder.md rule R236). -/
def enabled : AgentStep → State → Bool
  | .clkrTimeout, s => s.clk.refreshRunning
  | .clkrWake, s => s.clk.refreshRunning && s.clk.refreshEv
  | .workerWake, s => s.dec.worker == .waiting && s.dec.qEv
  | .workerDecode, s =>
    s.dec.worker == .draining && !s.dec.queue.isEmpty && hasRoom s.params.resultDepth s.chan.res.length
  | .workerIdle, s => s.dec.worker == .draining && s.dec.queue.isEmpty
  | .workerExit, s => s.dec.worker == .draining && s.dec.stop
  | .joinDone, s => s.chan.joinPending && s.dec.worker == .exited

/-- The refresh task ends (41_clock.md rules R158, R159). -/
def exitRefresh (s : State) : State := { s with clk := { s.clk with refreshRunning := false } }

/-- CLKR.TIMEOUT: the task exits if told to stop, else it samples the clock (41_clock.md rule R158). -/
def clkrTimeout (s : State) : State := if s.clk.refreshStop then exitRefresh s else sampleClock s

/-- CLKR.WAKE: the wakeup is consumed, and the task exits if told to stop (41_clock.md rule R159). -/
def clkrWake (s : State) : State :=
  let s1 := waitRefresh s
  if s1.clk.refreshStop then exitRefresh s1 else s1

/-- The worker's control state changes. -/
def setWorker (w : WorkerState) (s : State) : State := { s with dec := { s.dec with worker := w } }

/-- WORKER.WAKE: the wakeup is consumed; the worker exits if told to stop, else it drains (43_decoder.md rule R232). -/
def workerWake (s : State) : State :=
  let s1 := waitQueue s
  if s1.dec.stop then setWorker .exited s1 else setWorker .draining s1

/-- WORKER.DECODE: the head of the queue is decoded and its record emitted; its start time is not used (43_decoder.md
rules R233, R247). -/
def workerDecode (s : State) : State :=
  match s.dec.queue with
  | [] => s
  | e :: rest =>
    emit (decodeFrame s.params e.seq) { s with dec := { s.dec with queue := rest } }

/-- WORKER.IDLE (43_decoder.md rule R234). -/
def workerIdle (s : State) : State := setWorker .waiting s

/-- WORKER.EXIT (43_decoder.md rule R235). -/
def workerExit (s : State) : State := setWorker .exited s

/-- The join completion answers DEC.SHUTDOWN (43_decoder.md rule R249). -/
def joinDone (s : State) : State := respondOk { s with chan := { s.chan with joinPending := false } }

/-- The effect of a step that is enabled. -/
def perform : AgentStep → State → State
  | .clkrTimeout, s => clkrTimeout s
  | .clkrWake, s => clkrWake s
  | .workerWake, s => workerWake s
  | .workerDecode, s => workerDecode s
  | .workerIdle, s => workerIdle s
  | .workerExit, s => workerExit s
  | .joinDone, s => joinDone s

/-- An agent that is scheduled takes its step if it is enabled and holds otherwise (20_memory.md rule R83, log 2). -/
def agentStep (a : AgentStep) (s : State) : State := if enabled a s then perform a s else s

/-- The reset event: every field of the spec's state at its reset value, with any unanswered command discarded without
a response (70_reset_and_hazards.md rules R340, R341). The environment and the implementation's parameters stay
(log 11). -/
def resetEvent (s : State) : State := { State.ofParams s.params with env := s.env }

/-- The command port accepts a command only while no join is pending; the edge port takes every event
(30_encoding.md rule R110). -/
def accepts (p : PortWord) (s : State) : Bool :=
  match p with
  | .cmd _ => !s.chan.joinPending
  | .event _ => true

end Sys2Proof.Machine
end

