-- ==== Sys2Proof/Machine/Capture.lean ====
section
/-! DEFINITION. The meanings of CAP.START, CAP.STOP and the edge event EDGE, which is the framing step CAP.EDGE
(42_edge_capture.md rules R180 to R195). -/

namespace Sys2Proof.Machine

open Sys2Proof

/-- CAP.START (42_edge_capture.md rule R180). -/
def execCapStart (s : State) : Host.Outcome State Fault Refusal :=
  if s.clk.started then .next (respondOk { s with cap := { s.cap with enabled := true } })
  else .next (respondError .clockNotStarted s)

/-- CAP.STOP (42_edge_capture.md rule R181): a frame in progress is discarded, without a length check or a hand-off. -/
def execCapStop (s : State) : Host.Outcome State Fault Refusal :=
  .next (respondOk
    { s with cap := { s.cap with enabled := false, buf := [], start := none, lastLevel := none } })

/-- A high pulse qualifies as a message start: `START_DUR <= d < END_DUR` (42_edge_capture.md rule R187). -/
def qualifies (cfg : CfgState) (d : Duration) : Bool := decide (cfg.startDur ≤ d) && decide (d < cfg.endDur)

/-- Step 3, not accumulating: a rising edge with no pending start records one (rule R186), a falling edge with a pending
start commits or discards it (rule R187), and every other combination resets it (rule R188). -/
def idleEdge (level : Level) (time : Micros) (s : State) : State :=
  match level, s.cap.start with
  | .high, none => { s with cap := { s.cap with start := some time } }
  | .low, some st =>
    if qualifies s.cfg (time - st) then { s with cap := { s.cap with buf := [time - st] } }
    else { s with cap := { s.cap with start := none } }
  | .high, some _ => { s with cap := { s.cap with start := none } }
  | .low, none => { s with cap := { s.cap with start := none } }

/-- The end test, after the append: the gap exceeds `END_DUR`, or the buffer has reached `MAX_LEN` (rule R190). -/
def finished (maxLen : Nat) (cfg : CfgState) (d : Duration) (buf : List Duration) : Bool :=
  decide (cfg.endDur < d) || decide (maxLen ≤ buf.length)

/-- The message's start time, `st` of `start = some st` (rule R191); a free value where there is none (log 8). -/
def messageStart (buf : List Duration) (time : Micros) (s : State) : Micros :=
  match s.cap.start with
  | some st => st
  | none => Config.missingStart buf time

/-- The hand-off of a finished message, if it is long enough; CAP ignores the status (rules R191, R194). -/
def handOff (buf : List Duration) (time : Micros) (s : State) : State :=
  if s.cfg.minLen.toNat ≤ buf.length then decEnqueue buf (messageStart buf time s) s else s

/-- After a finished message the current edge may start the next one (rule R192). -/
def restartAt (level : Level) (time : Micros) (s : State) : State :=
  { s with
    cap :=
      { s.cap with
        buf := []
        start :=
          match level with
          | .high => some time
          | .low => none } }

/-- Step 4, accumulating: append, end test, hand-off and restart (rules R189 to R192). -/
def accumEdge (level : Level) (time : Micros) (s : State) : State :=
  let d := time - s.cap.lastTime
  let buf := s.cap.buf ++ [d]
  if finished s.params.maxLen s.cfg d buf then restartAt level time (handOff buf time s)
  else { s with cap := { s.cap with buf := buf } }

/-- Step 5: the edge becomes the last one (rule R193). -/
def recordEdge (level : Level) (time : Micros) (s : State) : State :=
  { s with cap := { s.cap with lastLevel := some level, lastTime := time } }

/-- Steps 2 to 5 for an edge at a known time: a duplicate level changes nothing (rules R185 to R193). -/
def frameEdge (level : Level) (time : Micros) (s : State) : State :=
  if s.cap.lastLevel = some level then s
  else if s.cap.buf.isEmpty then recordEdge level time (idleEdge level time s)
  else recordEdge level time (accumEdge level time s)

/-- EDGE, the step CAP.EDGE (42_edge_capture.md rules R182 to R184): dropped while capture is disabled; otherwise the
clock is sampled, the tick converted, and the edge framed. It has no response. -/
def execEdge (level : Level) (tick : Tick) (s : State) : Host.Outcome State Fault Refusal :=
  if s.cap.enabled then .next (frameEdge level (clkEdgeTime tick s) (sampleClock s))
  else .next s

end Sys2Proof.Machine
end

