-- ==== Sys2Proof/Machine/Clock.lean ====
section
/-! DEFINITION. The meanings of CLK.START, CLK.NOW, CLK.CONV and CLK.STOP (41_clock.md rules R151 to R157). -/

namespace Sys2Proof.Machine

open Sys2Proof

/-- The clock's group as CLK.START leaves it (41_clock.md rule R151). -/
def startedClock (refTick : Tick) : ClkState :=
  { started := true, lastTick := refTick, total := 0, refreshRunning := true, refreshStop := false, refreshEv := false }

/-- CLK.START (41_clock.md rule R151). -/
def execClkStart (refTick : Tick) (s : State) : Host.Outcome State Fault Refusal :=
  if s.clk.started then .next (respondError .clockAlreadyStarted s)
  else .next (respondOk { s with clk := startedClock refTick })

/-- CLK.NOW (41_clock.md rule R152). -/
def execClkNow (s : State) : Host.Outcome State Fault Refusal :=
  if s.clk.started then
    let s1 := sampleClock s
    .next (respond .ok s1.clk.total [] s1)
  else .next (respondError .clockNotStarted s)

/-- CLK.CONV (41_clock.md rule R154): no sample and no change but the response. -/
def execClkConv (tick : Tick) (s : State) : Host.Outcome State Fault Refusal :=
  if s.clk.started then .next (respond .ok (clkConv tick s) [] s)
  else .next (respondError .clockNotStarted s)

/-- CLK.STOP (41_clock.md rule R157): the response does not wait for the task to exit. -/
def execClkStop (s : State) : Host.Outcome State Fault Refusal :=
  if s.clk.refreshRunning then
    .next (respondOk (signalRefresh { s with clk := { s.clk with refreshStop := true } }))
  else .next (respondOk s)

end Sys2Proof.Machine
end

