-- ==== Sys2Proof/Machine/Flags.lean ====
section
/-! DEFINITION. The status registers, computed from other state on every read (10_state.md rules R46 to R48). The block
has no condition codes, so no operation sets a flag as a side effect (rule R57). -/

namespace Sys2Proof.Machine

open Sys2Proof

/-- STATUS: CLK_STARTED in bit 0, REFRESH_RUNNING in bit 1, CAP_ENABLED in bit 2, CAP_ACCUM in bit 3, DEC_RUNNING in
bit 4, and bits 7:5 read as 0 (10_state.md rule R46). -/
def statusWord (s : State) : BitVec 8 :=
  0#3 ++ BitVec.ofBool (s.dec.worker != .exited) ++ BitVec.ofBool (!s.cap.buf.isEmpty) ++ BitVec.ofBool s.cap.enabled
    ++ BitVec.ofBool s.clk.refreshRunning ++ BitVec.ofBool s.clk.started

/-- QCOUNT: the number of queued frames, at most 2^32 − 1 (10_state.md rule R47, 42_edge_capture.md rule R197). -/
def qcountWord (s : State) : BitVec 32 := BitVec.ofNat 32 (min s.dec.queue.length (2 ^ 32 - 1))

/-- QDROP: the drop count (10_state.md rule R48). -/
def qdropWord (s : State) : BitVec 32 := s.dec.qDrop

end Sys2Proof.Machine
end

