-- ==== Sys2Proof/Machine/ConfigRegs.lean ====
section
/-! DEFINITION. The meanings of CFG.WR and CFG.RD (42_edge_capture.md rules R196, R197). -/

namespace Sys2Proof.Machine

open Sys2Proof

/-- The thresholds after a write; the read-only registers are never written (10_state.md rules R44, R45). -/
def writeReg (reg : CfgReg) (value : Word) (c : CfgState) : CfgState :=
  match reg with
  | .startDur => { c with startDur := value }
  | .endDur => { c with endDur := value }
  | .minLen => { c with minLen := value.setWidth 32 }
  | .status => c
  | .qcount => c
  | .qdrop => c

/-- What a register reads, widened to 64 bits (42_edge_capture.md rule R197). -/
def readReg (reg : CfgReg) (s : State) : Word :=
  match reg with
  | .startDur => s.cfg.startDur
  | .endDur => s.cfg.endDur
  | .minLen => s.cfg.minLen.setWidth 64
  | .status => (statusWord s).setWidth 64
  | .qcount => (qcountWord s).setWidth 64
  | .qdrop => (qdropWord s).setWidth 64

/-- CFG.WR (42_edge_capture.md rule R196). A register or a value it may not write is malformed and answered ILLEGAL
(30_encoding.md rule R117). -/
def execCfgWr (reg : CfgReg) (value : Word) (s : State) : Host.Outcome State Fault Refusal :=
  if writeLegal reg value then .next (respondOk { s with cfg := writeReg reg value s.cfg })
  else .next (respondError .illegal s)

/-- CFG.RD (42_edge_capture.md rule R197): the read has no side effect. -/
def execCfgRd (reg : CfgReg) (s : State) : Host.Outcome State Fault Refusal :=
  .next (respond .ok (readReg reg s) [] s)

end Sys2Proof.Machine
end

