-- ==== Sys2Proof/Machine/Decoder.lean ====
section
/-! DEFINITION. The meanings of DEC.SUBMIT, DEC.SHUTDOWN and RES.POP (43_decoder.md rules R230, R248, R252). -/

namespace Sys2Proof.Machine

open Sys2Proof

/-- DEC.SUBMIT (43_decoder.md rule R230). A payload longer than `MAX_LEN` is malformed and answered ILLEGAL
(30_encoding.md rule R117), before the decoder's own conditions (60_exceptions.md rule R304). -/
def execDecSubmit (t0 : Micros) (seq : List Duration) (s : State) : Host.Outcome State Fault Refusal :=
  if submitLegal s.params seq then .next (respond (enqueueStatus s) 0 [] (decEnqueue seq t0 s))
  else .next (respondError .illegal s)

/-- The command port with a command accepted and not yet answered (43_decoder.md rule R248, log 5). -/
def holdResponse (s : State) : State :=
  { s with chan := { s.chan with joinPending := true, response := none } }

/-- DEC.SHUTDOWN (43_decoder.md rule R248): the response waits for the join completion of rule R249, or is given at once
when the worker has exited. -/
def execDecShutdown (s : State) : Host.Outcome State Fault Refusal :=
  if s.dec.worker = .exited then .next (respondOk s)
  else .next (holdResponse (signalQueue { s with dec := { s.dec with stop := true } }))

/-- RES.POP (43_decoder.md rule R252): the oldest record leaves the channel as `respond(OK, code, digits)`. -/
def execResPop (s : State) : Host.Outcome State Fault Refusal :=
  match s.chan.res with
  | [] => .next (respondError .empty s)
  | r :: rest =>
    .next (respond .ok ((recordCode r).setWidth 64) ((recordDigits r).map digitWord)
      { s with chan := { s.chan with res := rest } })

end Sys2Proof.Machine
end

