-- ==== Sys2Proof/Machine/Encoder.lean ====
section
/-! DEFINITION. The meaning of ENC.ENCODE (44_encoder.md rule R280). -/

namespace Sys2Proof.Machine

open Sys2Proof

/-- ENC.ENCODE (44_encoder.md rule R280): no state but the response changes. A payload longer than `ENC_MAX_DIGITS` is
malformed and answered ILLEGAL, also when it holds invalid characters (60_exceptions.md rule R304). -/
def execEncEncode (chars : List CharCode) (s : State) : Host.Outcome State Fault Refusal :=
  if encodeLegal s.params chars then
    match encodeChars s.params chars with
    | .ok out => .next (respond .ok (BitVec.ofNat 64 out.length) out s)
    | .error i => .next (respond .invalidBits (BitVec.ofNat 64 i) [] s)
  else .next (respondError .illegal s)

end Sys2Proof.Machine
end

