-- ==== Sys2Proof/Machine/Dispatch.lean ====
section
/-! DEFINITION. The meaning of each operation: one arm per constructor of `Instr`, each one direct call. -/

namespace Sys2Proof.Machine

open Sys2Proof

def exec (i : Instr) (s : State) : Host.Outcome State Fault Refusal :=
  match i with
  | .clkStart refTick => Sys2Proof.Machine.execClkStart refTick s
  | .clkNow => Sys2Proof.Machine.execClkNow s
  | .clkConv tick => Sys2Proof.Machine.execClkConv tick s
  | .clkStop => Sys2Proof.Machine.execClkStop s
  | .capStart => Sys2Proof.Machine.execCapStart s
  | .capStop => Sys2Proof.Machine.execCapStop s
  | .cfgWr reg value => Sys2Proof.Machine.execCfgWr reg value s
  | .cfgRd reg => Sys2Proof.Machine.execCfgRd reg s
  | .decSubmit t0 seq => Sys2Proof.Machine.execDecSubmit t0 seq s
  | .decShutdown => Sys2Proof.Machine.execDecShutdown s
  | .encEncode chars => Sys2Proof.Machine.execEncEncode chars s
  | .resPop => Sys2Proof.Machine.execResPop s
  | .edge level tick => Sys2Proof.Machine.execEdge level tick s

end Sys2Proof.Machine
end

