-- ==== Sys2Proof/Machine/Step.lean ====
section
/-! DEFINITION. One step of the machine: the environment's next stimulus says who moves. A command or an edge event is
decoded and executed; an agent of the block takes its step; reset resets. -/

namespace Sys2Proof.Machine

open Sys2Proof

/-- What a port does with the word it carries (30_encoding.md rules R110, R118): nothing while it is not accepted
(log 2), ILLEGAL for a command the decoder rejects, and the operation's meaning otherwise. -/
def portStep (p : PortWord) (s : State) : Host.Outcome State Fault Refusal :=
  if accepts p s then
    match decode s.params p with
    | .ok i => exec i s
    | .error _ => .next (respondError .illegal s)
  else .next s

/-- Every step is one atomic transition of the agent that moves (20_memory.md rules R75, R76). -/
def step (s : State) : Host.Outcome State Fault Refusal :=
  match (nextStimulus s).action with
  | .port p => portStep p (takeStimulus s)
  | .agent a => .next (agentStep a (takeStimulus s))
  | .reset => .next (resetEvent (takeStimulus s))

/-- The table's word `w` on its port as the next stimulus, with the command port ready, so that the next step runs
exactly it; the tick input keeps its reading (logs 9 and 10). A number that no port carries leaves the state alone. -/
def State.withFetchWord (s : State) (nbits w : Nat) : State :=
  match tablePortWord nbits w with
  | none => s
  | some p =>
    { s with
      chan := { s.chan with joinPending := false }
      env := { s.env with inputs := { tickNow := s.env.tickNow, action := .port p } :: s.env.inputs } }

end Sys2Proof.Machine
end

