-- ==== Sys2Proof/Machine/Assembler.lean ====
section
/-! DEFINITION. The assembler syntax, the pseudo-instructions and the test-bench directives of 30_encoding.md rules R123
to R125: a line of text becomes the port words it stands for. A value an operand field cannot hold makes the line
unreadable; a value the opcode does not allow is encoded all the same, and the block answers it ILLEGAL (log 16). -/

namespace Sys2Proof.Machine

open Sys2Proof

/-- The tokens of a line. -/
inductive Token where
  | name (cs : List Char)
  | num (n : Nat)
  | str (cs : List Char)
  | comma
  | openList
  | closeList
  deriving DecidableEq, Repr

/-- Where the reader of a line stands (rule R123; what it leaves open is log 16); a token in progress holds its characters last first. -/
inductive LexMode where
  | between
  | inName (rev : List Char)
  | inDecimal (n : Nat) (digits : Nat)
  | inHex (n : Nat)
  | inString (rev : List Char)
  deriving DecidableEq, Repr

/-- The value of a decimal or hexadecimal digit, in capitals or not (DESIGN CHOICE, log 16). -/
def digitValue (c : Char) : Option Nat :=
  let n := c.toNat
  if 48 ≤ n ∧ n ≤ 57 then some (n - 48)
  else if 97 ≤ n ∧ n ≤ 102 then some (n - 87)
  else if 65 ≤ n ∧ n ≤ 70 then some (n - 55)
  else none

/-- A character of a mnemonic, register or directive name. -/
def isNameChar (c : Char) : Bool := c.isAlphanum || c == '.' || c == '_'

/-- The token in progress, where the mode holds one that may end here. Rule R123 does not say what `0x` is with no digit
after it: DESIGN CHOICE, it is the number 0 (log 16). A string that is not closed is no token (log 16). -/
def closeToken : LexMode → Option (List Token)
  | .between => some []
  | .inName rev => some [.name rev.reverse]
  | .inDecimal n _ => some [.num n]
  | .inHex n => some [.num n]
  | .inString _ => none

/-- A character between tokens: the tokens it makes at once and the mode after it. -/
def startToken (c : Char) : Option (List Token × LexMode) :=
  if c == ' ' || c == '\t' then some ([], .between)
  else if c == ',' then some ([.comma], .between)
  else if c == '[' then some ([.openList], .between)
  else if c == ']' then some ([.closeList], .between)
  else if c == '"' then some ([], .inString [])
  else if c.isDigit then (digitValue c).map fun v => ([], .inDecimal v 1)
  else if isNameChar c then some ([], .inName [c])
  else none

/-- One character: `none` is an unreadable line. -/
def lexChar (m : LexMode) (c : Char) : Option (List Token × LexMode) :=
  let close : Option (List Token × LexMode) :=
    match closeToken m, startToken c with
    | some ts, some (us, m') => some (ts ++ us, m')
    | _, _ => none
  match m with
  | .between => startToken c
  | .inName rev => if isNameChar c then some ([], .inName (c :: rev)) else close
  | .inDecimal n digits =>
    if c == 'x' && n == 0 && digits == 1 then some ([], .inHex 0)
    else if c.isDigit then (digitValue c).map fun v => ([], .inDecimal (10 * n + v) (digits + 1))
    else if isNameChar c then none
    else close
  | .inHex n =>
    match digitValue c with
    | some v => some ([], .inHex (16 * n + v))
    | none => if isNameChar c then none else close
  | .inString rev => if c == '"' then some ([.str rev.reverse], .between) else some ([], .inString (c :: rev))

/-- The tokens of a line; outside a string, `;` starts a comment (rule R123). -/
def lexLine : LexMode → List Char → Option (List Token)
  | m, [] => closeToken m
  | .inString rev, c :: cs =>
    match lexChar (.inString rev) c with
    | some (ts, m') => (lexLine m' cs).map (ts ++ ·)
    | none => none
  | m, c :: cs =>
    if c == ';' then closeToken m
    else
      match lexChar m c with
      | some (ts, m') => (lexLine m' cs).map (ts ++ ·)
      | none => none

/-- The operands of a line. -/
inductive AsmOperand where
  | num (n : Nat)
  | name (cs : List Char)
  | nums (ns : List Nat)
  deriving DecidableEq, Repr

/-- The elements of a list operand after its opening bracket, and the tokens after its closing one. -/
def listElements : List Token → Option (List Nat × List Token)
  | .closeList :: rest => some ([], rest)
  | .num n :: .closeList :: rest => some ([n], rest)
  | .num n :: .comma :: rest =>
    match rest with
    | .num _ :: _ => (listElements rest).map fun r => (n :: r.1, r.2)
    | _ => none
  | _ => none

/-- The operands, separated by commas. A string is the list of its characters' codes (rule R108). Rule R123 gives the
string to ENC.ENCODE only: DESIGN CHOICE, it stands for that list wherever a list may stand, in DEC.SUBMIT too (log 16).
`fuel` bounds the number of operands; no line has more operands than tokens. -/
def operandsOf : Nat → List Token → Option (List AsmOperand)
  | _, [] => some []
  | 0, _ => none
  | fuel + 1, ts =>
    let first : Option (AsmOperand × List Token) :=
      match ts with
      | .num n :: rest => some (.num n, rest)
      | .name cs :: rest => some (.name cs, rest)
      | .str cs :: rest => some (.nums (cs.map Char.toNat), rest)
      | .openList :: rest => (listElements rest).map fun r => (.nums r.1, r.2)
      | _ => none
    match first with
    | some (o, []) => some [o]
    | some (o, .comma :: t :: rest) => (operandsOf fuel (t :: rest)).map (o :: ·)
    | _ => none

/-- A register's name (rule R123). -/
def regNamed (cs : List Char) : Option CfgReg :=
  if cs = "START_DUR".toList then some .startDur
  else if cs = "END_DUR".toList then some .endDur
  else if cs = "MIN_LEN".toList then some .minLen
  else if cs = "STATUS".toList then some .status
  else if cs = "QCOUNT".toList then some .qcount
  else if cs = "QDROP".toList then some .qdrop
  else none

/-- An internal step's name (rule R125). -/
def stepNamed (cs : List Char) : Option AgentStep :=
  if cs = "CLKR.TIMEOUT".toList then some .clkrTimeout
  else if cs = "CLKR.WAKE".toList then some .clkrWake
  else if cs = "WORKER.WAKE".toList then some .workerWake
  else if cs = "WORKER.DECODE".toList then some .workerDecode
  else if cs = "WORKER.IDLE".toList then some .workerIdle
  else if cs = "WORKER.EXIT".toList then some .workerExit
  else none

/-- A number that fits a 64-bit field. -/
def field64 (n : Nat) : Option Word := if n < 2 ^ 64 then some (BitVec.ofNat 64 n) else none

/-- A payload of numbers that fit 64-bit elements. -/
def payload64 : List Nat → Option (List Word)
  | [] => some []
  | n :: ns =>
    match field64 n, payload64 ns with
    | some w, some ws => some (w :: ws)
    | _, _ => none

/-- What a line stands for. -/
inductive AsmLine where
  | words (ps : List PortWord)
  | drain
  | tick (t : Tick)
  | refresh
  | runWorker
  | step (a : AgentStep)
  deriving DecidableEq, Repr

/-- A command with an opcode, a selector, one operand field and a payload. -/
def asmCommand (op : Opcode) (sel : BitVec 8) (a0 : Word) (payload : List Word) : AsmLine :=
  .words [.cmd { hdr := header op sel, a0, a1 := 0, payload }]

/-- `CFG.WR` of the three thresholds, the expansion of `CAP.CONFIG` (rule R124). -/
def configWords (s e m : Word) : List PortWord :=
  [.cmd { hdr := header .cfgWr CfgReg.startDur.sel, a0 := s, a1 := 0, payload := [] },
    .cmd { hdr := header .cfgWr CfgReg.endDur.sel, a0 := e, a1 := 0, payload := [] },
    .cmd { hdr := header .cfgWr CfgReg.minLen.sel, a0 := m, a1 := 0, payload := [] }]

/-- A line with no operand (rules R123 to R125). -/
def nullaryLine (m : List Char) : Option AsmLine :=
  if m = "CLK.NOW".toList then some (asmCommand .clkNow 0 0 [])
  else if m = "CLK.STOP".toList then some (asmCommand .clkStop 0 0 [])
  else if m = "CAP.START".toList then some (asmCommand .capStart 0 0 [])
  else if m = "CAP.STOP".toList then some (asmCommand .capStop 0 0 [])
  else if m = "DEC.SHUTDOWN".toList then some (asmCommand .decShutdown 0 0 [])
  else if m = "RES.POP".toList then some (asmCommand .resPop 0 0 [])
  else if m = "CFG.DEFAULTS".toList then
    some (.words (configWords 200 5000 64))
  else if m = "RES.DRAIN".toList then some .drain
  else if m = ".refresh".toList then some .refresh
  else none

/-- A line whose operands are one number (rules R123, R125). -/
def numberLine (m : List Char) (n : Nat) : Option AsmLine :=
  if m = "CLK.START".toList then (field64 n).map fun w => asmCommand .clkStart 0 w []
  else if m = "CLK.CONV".toList then (field64 n).map fun w => asmCommand .clkConv 0 w []
  else if m = ".tick".toList then if n < 2 ^ 32 then some (.tick (BitVec.ofNat 32 n)) else none
  else none

/-- A line whose operand is one name (rules R123, R125). -/
def nameLine (m r : List Char) : Option AsmLine :=
  if m = "CFG.RD".toList then (regNamed r).map fun reg => asmCommand .cfgRd reg.sel 0 []
  else if m = ".step".toList then (stepNamed r).map .step
  else if m = ".run".toList then if r = "WORKER".toList then some .runWorker else none
  else none

/-- A line with two numbers: an edge event (rules R113, R123). -/
def pairLine (m : List Char) (l t : Nat) : Option AsmLine :=
  if m = "EDGE".toList ∧ l < 2 ∧ t < 2 ^ 32 then some (.words [.event (BitVec.ofNat 33 (l * 2 ^ 32 + t))]) else none

/-- The line of a mnemonic and its operands (rules R123 to R125). -/
def assembleOperands (m : List Char) : List AsmOperand → Option AsmLine
  | [] => nullaryLine m
  | [.num n] => numberLine m n
  | [.name r] => nameLine m r
  | [.num l, .num t] => pairLine m l t
  | [.name r, .num v] =>
    if m = "CFG.WR".toList then
      match regNamed r, field64 v with
      | some reg, some w => some (asmCommand .cfgWr reg.sel w [])
      | _, _ => none
    else none
  | [.num s, .num e, .num l] =>
    if m = "CAP.CONFIG".toList then
      match field64 s, field64 e, field64 l with
      | some ws, some we, some wl => some (.words (configWords ws we wl))
      | _, _, _ => none
    else none
  | [.num t0, .nums ds] =>
    if m = "DEC.SUBMIT".toList then
      match field64 t0, payload64 ds with
      | some w, some ws => some (asmCommand .decSubmit 0 w ws)
      | _, _ => none
    else none
  | [.nums cs] =>
    if m = "ENC.ENCODE".toList then (payload64 cs).map fun ws => asmCommand .encEncode 0 0 ws else none
  | _ => none

/-- One line of a program: `none` where it cannot be read, an empty line stands for no port word (rule R123). -/
def assembleLine (cs : List Char) : Option AsmLine :=
  match lexLine .between cs with
  | some [] => some (.words [])
  | some (.name m :: ts) =>
    match operandsOf ts.length ts with
    | some os => assembleOperands m os
    | none => none
  | _ => none

end Sys2Proof.Machine
end

