-- ==== Sys2Proof/Machine/Bench.lean ====
section
/-! DEFINITION. How a test-bench program moves the machine (30_encoding.md rules R124, R125): every line becomes steps of
`step`, and a choice the schedule leaves open gives several end states (20_memory.md rule R76). -/

namespace Sys2Proof.Machine

open Sys2Proof

/-- A bench: the tick input's reading, set by `.tick`, and the machine. -/
structure Bench where
  tick : Tick
  machine : State
  deriving DecidableEq, Repr

/-- One step of the machine with a given action as its next stimulus. -/
def benchAct (a : Action) (b : Bench) : Bench :=
  match step { b.machine with env := { b.machine.env with inputs := { tickNow := b.tick, action := a } :: b.machine.env.inputs } }
  with
  | .next s => { b with machine := s }
  | .fault _ => b
  | .refused _ => b

/-- The join completion is taken as soon as it is enabled (rule R125). -/
def benchJoin (b : Bench) : Bench := if enabled .joinDone b.machine then benchAct (.agent .joinDone) b else b

/-- One internal step, then the join completion if it is enabled. -/
def benchAgent (a : AgentStep) (b : Bench) : Bench := benchJoin (benchAct (.agent a) b)

/-- The worker's steps that are enabled. -/
def workerChoices (s : State) : List AgentStep :=
  [AgentStep.workerWake, .workerDecode, .workerIdle, .workerExit].filter fun a => enabled a s

/-- `.run WORKER`: every maximal sequence of at most `fuel` worker steps (rules R125, R236). -/
def runWorkerAll : Nat → Bench → List Bench
  | 0, b => [b]
  | fuel + 1, b =>
    if (workerChoices b.machine).isEmpty then [b]
    else (workerChoices b.machine).flatMap fun a => runWorkerAll fuel (benchAgent a b)

/-- `RES.POP` repeated until the response is EMPTY: one pop for each record and one more (rule R124). -/
def drainPops (b : Bench) : List PortWord :=
  List.replicate (b.machine.chan.res.length + 1) (plainCommand .resPop 0)

/-- The end states of one line; none where a step it names is not enabled there (rule R125). With a queue of n entries
the worker has at most n + 3 steps before it holds. -/
def benchLine (l : AsmLine) (b : Bench) : List Bench :=
  match l with
  | .words ps => [ps.foldl (fun b p => benchJoin (benchAct (.port p) b)) b]
  | .drain => [(drainPops b).foldl (fun b p => benchJoin (benchAct (.port p) b)) b]
  | .tick t => [{ b with tick := t }]
  | .refresh => if enabled .clkrTimeout b.machine then [benchAct (.agent .clkrTimeout) b] else []
  | .runWorker => runWorkerAll (b.machine.dec.queue.length + 4) b
  | .step a => if enabled a b.machine then [benchAgent a b] else []

/-- The end states of a program. -/
def benchRun : List AsmLine → Bench → List Bench
  | [], b => [b]
  | l :: ls, b => (benchLine l b).flatMap (benchRun ls)

end Sys2Proof.Machine
end

