-- ==== Sys2Proof/Safety.lean ====
section
/-! DEFINITION. The terms in which claims about runs are made: the invariant of the block's state, the obligations of the
environment that the clock's claims rest on, and runs of steps. -/

namespace Sys2Proof.Machine

open Sys2Proof

/-- The relations between the literals that the rules rely on (93_implementation_defined.md, 00_scope.md rules R12 and
R13). The last three are read from the rules that need them (DEDUCED, log 20). -/
structure Literals.Ok (l : Literals) : Prop where
  /-- The ranges stay disjoint and ordered (rule R12). -/
  boundsOrdered : l.bounds.shortMax < l.bounds.longMin ∧ l.bounds.longMax < l.bounds.extraLongMin ∧
    l.bounds.extraLongMax < l.bounds.megaLongMin
  /-- Each encoder duration lies inside its own range (rule R13). -/
  shortInRange : l.bounds.shortMin ≤ l.pulses.short.toNat ∧ l.pulses.short.toNat ≤ l.bounds.shortMax
  longInRange : l.bounds.longMin ≤ l.pulses.long.toNat ∧ l.pulses.long.toNat ≤ l.bounds.longMax
  extraLongInRange : l.bounds.extraLongMin ≤ l.pulses.extraLong.toNat ∧
    l.pulses.extraLong.toNat ≤ l.bounds.extraLongMax
  megaLongInRange : l.bounds.megaLongMin ≤ l.pulses.megaLong.toNat ∧ l.pulses.megaLong.toNat ≤ l.bounds.megaLongMax
  /-- A captured frame's end marker finishes it at the defaults (42_edge_capture.md rule R199). -/
  endMarkerFinishes : l.defEndDur < l.pulses.megaLong
  /-- An encoded frame's first high pulse commits a message at the defaults. -/
  startMarkerCommits : l.defStartDur ≤ l.pulses.short ∧ l.pulses.short < l.defEndDur
  /-- The refresh comes before the tick wraps (70_reset_and_hazards.md rule R345). -/
  refreshBeforeWrap : l.refreshPeriod < Config.tickMod
  /-- The longest encoded string fills the cap (rule R14). -/
  longestFits : l.encMaxDigits = (l.maxLen - 4) / 4
  /-- A first duration does not reach the cap (42_edge_capture.md rules R187, R198). -/
  capAboveFirst : 2 ≤ l.maxLen
  /-- The frame of one digit is long enough to decode (44_encoder.md rule R284). -/
  oneDigitDecodes : l.decMinLen ≤ 8
  /-- The digit characters are 8-bit codes (30_encoding.md rule R108). -/
  charsFit : l.charZero + 3 < 256

/-- A channel's length is within its capacity (10_state.md rules R49, R54). -/
def withinDepth (d : Depth) (n : Nat) : Prop :=
  match d with
  | .unbounded => True
  | .bounded p => n ≤ p + 1

/-- The level of the edge that appended the last duration of a buffer of `n` durations: high durations stand at even
indices and end at a falling edge (42_edge_capture.md rule R198, item 5). -/
def lastLevelOf (n : Nat) : Level := if n % 2 = 1 then .low else .high

/-- The invariant every step keeps. The framer's part is 42_edge_capture.md rule R198 (items 1 to 5), the worker's
43_decoder.md rules R237 and R248, the capacities 10_state.md rules R49 and R54. -/
structure State.Inv (s : State) : Prop where
  /-- The block's literals stand in the relations the rules rely on (93_implementation_defined.md). -/
  literalsOk : Literals.Ok s.params.toLiterals
  /-- A message of `MAX_LEN` durations is finished in the step that appends its last one (R198, item 1). -/
  bufShort : s.cap.buf.length < s.params.maxLen
  /-- Accumulating implies a start time (R198, item 2). -/
  bufHasStart : s.cap.buf ≠ [] → s.cap.start.isSome
  /-- Accumulating implies a last level, the one that fits the buffer's length (R198, items 2 and 5). -/
  bufLevel : s.cap.buf ≠ [] → s.cap.lastLevel = some (lastLevelOf s.cap.buf.length)
  /-- Disabled capture is idle (R198, item 3). -/
  disabledIdle : s.cap.enabled = false → s.cap.buf = [] ∧ s.cap.start = none ∧ s.cap.lastLevel = none
  /-- A pending start follows an accepted rising edge (R198, item 4). -/
  pendingHigh : s.cap.start.isSome → s.cap.buf = [] → s.cap.lastLevel = some .high
  /-- Capture runs only on a started clock (42_edge_capture.md rule R184). -/
  captureClocked : s.cap.enabled = true → s.clk.started = true
  /-- The refresh task exists only after CLK.START (10_state.md rule R36). -/
  refreshClocked : s.clk.refreshRunning = true → s.clk.started = true
  /-- Only CLK.STOP signals the refresh task (41_clock.md rule R159). -/
  refreshWakeMeansStop : s.clk.refreshEv = true → s.clk.refreshStop = true
  /-- A refresh task told to stop has its wakeup pending (41_clock.md rule R157). -/
  refreshStopWakes : s.clk.refreshRunning = true → s.clk.refreshStop = true → s.clk.refreshEv = true
  /-- The queue is within its capacity (10_state.md rule R49). -/
  queueFits : withinDepth s.params.queueDepth s.dec.queue.length
  /-- No queued sequence is longer than `MAX_LEN` (20_memory.md rule R70). -/
  framesFit : ∀ e ∈ s.dec.queue, e.seq.length ≤ s.params.maxLen
  /-- The result channel is within its capacity (10_state.md rule R54). -/
  resFits : withinDepth s.params.resultDepth s.chan.res.length
  /-- No queued frame waits for a later submission (43_decoder.md rule R237). -/
  noFrameStranded : s.dec.worker = .waiting → s.dec.queue ≠ [] → s.dec.qEv = true
  /-- A worker told to stop has its wakeup pending until it exits (43_decoder.md rules R236, R248). -/
  stopWakes : s.dec.stop = true → s.dec.worker ≠ .exited → s.dec.qEv = true
  /-- The worker exits only when told to stop (43_decoder.md rules R232, R235). -/
  exitedStopped : s.dec.worker = .exited → s.dec.stop = true
  /-- A join is pending only after DEC.SHUTDOWN (10_state.md rule R55). -/
  joinStopped : s.chan.joinPending = true → s.dec.stop = true
  /-- An unanswered command shows no response (30_encoding.md rule R128, log 5). -/
  joinUnanswered : s.chan.joinPending = true → s.chan.response = none

/-- Two successive samples, at real times in microseconds, less than 2^32 apart: the single-wrap premise
(70_reset_and_hazards.md rule R345). -/
def singleWrap (before after : Nat) : Prop := before ≤ after ∧ after < before + Config.tickMod

/-- A refresh taken in time: within `REFRESH_PERIOD` of the sample before it (70_reset_and_hazards.md rule R345). -/
def refreshInTime (refreshPeriod before after : Nat) : Prop := before ≤ after ∧ after ≤ before + refreshPeriod

/-- What the free-running counter reads at a real time (00_scope.md rules R9, R10). -/
def tickAt (real : Nat) : Tick := BitVec.ofNat 32 real

/-- The clock is right at real time `real`, counted from the real time `origin` of CLK.START (41_clock.md rule R160). -/
structure ClockRight (origin real : Nat) (s : State) : Prop where
  started : s.clk.started = true
  ordered : origin ≤ real
  sampled : s.clk.lastTick = tickAt real
  counted : s.clk.total = BitVec.ofNat 64 (real - origin)
  specMaxTick : s.params.maxTick = .pow32

/-- Zero or more steps. -/
inductive Reaches : State → State → Prop where
  | refl (s : State) : Reaches s s
  | tail {s t u : State} : Reaches s t → step t = .next u → Reaches s u

/-- The steps of a list of agents, in order; each is taken only if it is enabled where it stands. -/
def agentRun : List AgentStep → State → Option State
  | [], s => some s
  | a :: as, s => if enabled a s then agentRun as (perform a s) else none

end Sys2Proof.Machine
end

