-- ==== Sys2Proof/Certificates/Slice0/Obligations.lean ====
section
/-! DEFINITION. The statements for the provers: what the numbered rules of spec/ say of the model. `Sys2Proof.Claims`
holds the terms they share, written from the rules and not from the model's own operations. -/

namespace Sys2Proof.Claims

open Sys2Proof Sys2Proof.Machine

/-- The header's bits 15:8 (rule R111). -/
abbrev opField (c : Command) : Nat := c.hdr.toNat / 256

/-- The header's bits 7:0 (rule R111). -/
abbrev selField (c : Command) : Nat := c.hdr.toNat % 256

/-- Every operand field is 0 and the payload empty (rule R112). -/
abbrev noFields (c : Command) : Prop := c.a0 = 0 ∧ c.a1 = 0 ∧ c.payload = []

/-- A command with no operand at all (rules R112, R115). -/
abbrev noOperand (c : Command) : Prop := selField c = 0 ∧ noFields c

/-- A command whose one operand is the 32-bit `a0[31:0]` (rule R112). -/
abbrev oneTick (c : Command) : Prop := selField c = 0 ∧ c.a0.toNat < 2 ^ 32 ∧ c.a1 = 0 ∧ c.payload = []

/-- The state with a response placed on the command port and nothing else changed (rule R128). -/
def answered (status : Status) (value : Word) (payload : List Word) (s : State) : State :=
  { s with chan := { s.chan with response := some { status, value, payload } } }

/-- `respond(ILLEGAL, 0, [])` and no state changed (rule R117). -/
def illegal (s : State) : State := answered .illegal 0 [] s

/-- The clock sampled at the tick input's reading (rule R153). -/
def sampled (s : State) : State :=
  { s with
    clk :=
      { s.clk with
        total := s.clk.total + BitVec.ofNat 64 (wrapsub32 s.params.maxTick s.env.tickNow s.clk.lastTick)
        lastTick := s.env.tickNow } }

/-- The time CAP gives an edge's tick, after the sample (rules R155, R156). -/
def edgeTime (tick : Tick) (s : State) : Micros :=
  (sampled s).clk.total - BitVec.ofNat 64 (wrapsub32 s.params.maxTick s.env.tickNow tick)

/-- A channel of `n` entries holds as many as its capacity allows (rule R231). -/
def full (d : Depth) (n : Nat) : Bool :=
  match d with
  | .unbounded => false
  | .bounded p => decide (p + 1 ≤ n)

/-- The drop count after one more drop, saturating at 2^32 − 1 (rule R53). -/
def dropsAfter (q : BitVec 32) : BitVec 32 := BitVec.ofNat 32 (min (q.toNat + 1) (2 ^ 32 - 1))

/-- The state after `dec_enqueue(S, seq, t0)` (rule R231). -/
def enqueued (seq : List Duration) (t0 : Micros) (s : State) : State :=
  if s.dec.stop || full s.params.queueDepth s.dec.queue.length then
    { s with dec := { s.dec with qDrop := dropsAfter s.dec.qDrop } }
  else { s with dec := { s.dec with queue := s.dec.queue ++ [{ seq, t0 }], qEv := true } }

/-- The status `dec_enqueue` returns (rule R231). -/
def enqueueAnswer (s : State) : Status :=
  if s.dec.stop then .decoderStopped
  else if full s.params.queueDepth s.dec.queue.length then .queueFull
  else .ok

/-- A step of an agent that is enabled under `cond` with the effect `t`, and holds otherwise. -/
def stepIs (a : AgentStep) (s : State) (cond : Bool) (t : State) : Prop :=
  agentStep a s = if cond then t else s

/-- Rule R241's scan: the first even offset `o`, with `o + 2 <= n`, that holds a start marker. -/
def startOffset (sym : List Symbol) : Nat → Nat → Option Nat
  | 0, _ => none
  | fuel + 1, o =>
    if o + 2 ≤ sym.length then
      if sym[o]? = some .short ∧ sym[o + 1]? = some .extraLong then some o else startOffset sym fuel (o + 2)
    else none

/-- Rule R243's scan: the sub-bits from offset `o` to the end marker. -/
def subBitsFrom (sym : List Symbol) : Nat → Nat → List SubBit → Except DecodeError (List SubBit)
  | 0, _, _ => .error .endMarkerNotFound
  | fuel + 1, o, bits =>
    if o + 2 ≤ sym.length then
      match sym[o]?, sym[o + 1]? with
      | some .short, some .short => subBitsFrom sym fuel (o + 2) (bits ++ [.zero])
      | some .short, some .long => subBitsFrom sym fuel (o + 2) (bits ++ [.one])
      | some .short, some .megaLong => .ok bits
      | _, _ => .error .invalidSignals
    else .error .endMarkerNotFound

/-- The digit of two sub-bits of a list (rule R103). -/
def digitAt (bits : List SubBit) (k : Nat) : Digit :=
  match bits[2 * k]?, bits[2 * k + 1]? with
  | some .zero, some .one => 0
  | some .one, some .zero => 1
  | some .zero, some .zero => 2
  | _, _ => 3

/-- Rule R238's pseudocode, with its offsets and indices. -/
def decodeByOffsets (p : Params) (seq : List Duration) : ResultRec :=
  if seq.length < p.decMinLen then .error .insufficientData
  else if seq.any (fun d => (classify p.bounds d).isNone) then .error .invalidTimings
  else
    let sym := seq.filterMap (classify p.bounds)
    match startOffset sym sym.length 0 with
    | none => .error .startMarkerNotFound
    | some o =>
      if o = 0 ∧ p.startAtZeroIsError = true then .error .startMarkerNotFound
      else
        match subBitsFrom sym sym.length (o + 2) [] with
        | .error e => .error e
        | .ok bits => .message ((List.range (bits.length / 2)).map (digitAt bits))

/-- The next level of an alternating line. -/
def otherLevel : Level → Level
  | .low => .high
  | .high => .low

/-- The state after an edge that is handled in the tick it happened, `tick_now = tick` (rule R156). -/
def afterEdge (level : Level) (tick : Tick) (s : State) : State :=
  match exec (.edge level tick) { s with env := { s.env with tickNow := tick } } with
  | .next t => t
  | .fault _ => s
  | .refused _ => s

/-- The state after alternating edges, each a duration after the one before it, starting with `level` one duration after
`tick`. -/
def afterEdges : Level → Tick → List Duration → State → State
  | _, _, [], s => s
  | level, tick, d :: ds, s =>
    afterEdges (otherLevel level) (tick + d.setWidth 32) ds (afterEdge level (tick + d.setWidth 32) s)

/-- The state with every queued start time set to 0. -/
def forgetStartTimes (s : State) : State :=
  { s with dec := { s.dec with queue := s.dec.queue.map fun e => { e with t0 := 0 } } }

/-- The step at `s` is one of the given agents' steps, or runs one of the given operations, told by mnemonic. -/
def movedBy (s : State) (agents : List AgentStep) (mnemonics : List String) : Prop :=
  (∃ a ∈ agents, (nextStimulus s).action = .agent a) ∨
    ∃ p i, (nextStimulus s).action = .port p ∧ decode s.params p = .ok i ∧ i.mnemonic ∈ mnemonics

/-- The step at `s` answers a command or completes a join. -/
def movedByCommandOrJoin (s : State) : Prop :=
  (∃ c, (nextStimulus s).action = .port (.cmd c)) ∨ (nextStimulus s).action = .agent .joinDone

/-- The number of a decode error (rule R121). -/
def errorNumber : DecodeError → Nat
  | .insufficientData => 1
  | .invalidTimings => 2
  | .startMarkerNotFound => 3
  | .invalidSignals => 4
  | .endMarkerNotFound => 5

/-- The codes of a string of digits, from the code of '0' (rule R108). -/
def digitChars (charZero : Nat) (ds : List Digit) : List CharCode := ds.map fun d => BitVec.ofNat 8 (charZero + d.val)

end Sys2Proof.Claims

open Sys2Proof Sys2Proof.Machine Sys2Proof.Claims

/-! ## Reset, the ports and decoding -/

/-- R341: every field of the spec's state at its reset value, and what the computed registers read. -/
def Obligations.ResetLeavesTheTableOfR341 : Prop :=
  State.reset.clk = ⟨false, 0, 0, false, false, false⟩ ∧ State.reset.cap = ⟨false, none, 0, none, []⟩ ∧
    State.reset.cfg = ⟨200, 5000, 64⟩ ∧ State.reset.dec = ⟨[], false, false, .waiting, 0⟩ ∧
      State.reset.chan.res = [] ∧ State.reset.chan.joinPending = false ∧ readReg .status State.reset = 0x10 ∧
        readReg .qcount State.reset = 0 ∧ readReg .qdrop State.reset = 0

/-- R340, R341: the reset event sets every field, whatever the state, the thresholds to the parameters' defaults, and
leaves no response; the environment and the block's parameters stay (the model's choices, logs 5 and 11). -/
def Obligations.ResetEventRestoresEveryField : Prop :=
  ∀ s t, (nextStimulus s).action = .reset → step s = .next t →
    t.clk = ⟨false, 0, 0, false, false, false⟩ ∧ t.cap = ⟨false, none, 0, none, []⟩ ∧
      t.cfg = ⟨s.params.defStartDur, s.params.defEndDur, s.params.defMinLen⟩ ∧ t.dec = ⟨[], false, false, .waiting, 0⟩ ∧
        t.chan = ⟨[], false, none⟩ ∧ t.params = s.params ∧ t.env = (takeStimulus s).env

/-- R75, R110, R118: what a step is, for every stimulus but reset. A port word, whether it is accepted or not and whether
it decodes or not, is handled by its port; an accepted word that decodes to `i` is `exec` of `i`; an agent takes its step.
The next stimulus is the oldest listed one, or the free one of the counter where none is listed. Each acts in the state in
which only the environment has advanced: the stimulus is taken and the tick input reads what it says. The environment's form
is the model's choice, logs 1, 3 and 4. -/
def Obligations.StepRunsTheDecodedOperation : Prop :=
  (∀ s p, (nextStimulus s).action = .port p → step s = portStep p (takeStimulus s)) ∧
    (∀ s p i, (nextStimulus s).action = .port p → (s.chan.joinPending = false ∨ ∃ w, p = .event w) →
        decode s.params p = .ok i → step s = exec i (takeStimulus s)) ∧
      (∀ s a, (nextStimulus s).action = .agent a → step s = .next (agentStep a (takeStimulus s))) ∧
        (∀ s st rest, s.env.inputs = st :: rest → nextStimulus s = st) ∧
        (∀ s, s.env.inputs = [] → nextStimulus s = Config.freeStimulus s.env.draws) ∧
        ∀ s,
          takeStimulus s = { s with env := (takeStimulus s).env } ∧
            (takeStimulus s).env.tickNow = (nextStimulus s).tickNow ∧
              (takeStimulus s).env.inputs = s.env.inputs.tail ∧
                (takeStimulus s).env.draws = if s.env.inputs = [] then s.env.draws + 1 else s.env.draws

/-- R110: while a join is pending no command is accepted, and the edge port still takes its event. That an unaccepted
command changes nothing is the model's choice, log 2. -/
def Obligations.NoCommandIsAcceptedWhileAJoinIsPending : Prop :=
  (∀ s c, s.chan.joinPending = true → portStep (.cmd c) s = .next s) ∧
    ∀ s w, portStep (.event w) s = exec (decodeEvent w) s

/-- R116: the reserved opcodes, by their ranges. -/
def Obligations.ReservedOpcodesAnswerIllegal : Prop :=
  ∀ (c : Command) (s : State), s.chan.joinPending = false →
    (opField c = 0 ∨ (0x05 ≤ opField c ∧ opField c ≤ 0x0F) ∨ (0x12 ≤ opField c ∧ opField c ≤ 0x1F) ∨
        (0x22 ≤ opField c ∧ opField c ≤ 0x2F) ∨ (0x32 ≤ opField c ∧ opField c ≤ 0x3F) ∨
          (0x41 ≤ opField c ∧ opField c ≤ 0x4F) ∨ 0x51 ≤ opField c) →
      portStep (.cmd c) s = .next (illegal s)

/-- R113: every 33-bit value is a legal event, level in bit 32 and tick in bits 31:0. -/
def Obligations.EveryEdgeWordIsAnEdgeEvent : Prop :=
  ∀ (params : Params) (w : BitVec 33),
    decode params (.event w) = .ok (.edge (if w.getLsbD 32 then .high else .low) (w.setWidth 32))

/-- R111 to R114: words written out from the opcode map decode to their operations. -/
def Obligations.SpecWordsDecodeToTheirOperations : Prop :=
  decode Config.params (.cmd ⟨0x0100, 0xFFFFFFFA, 0, []⟩) = .ok (.clkStart 4294967290) ∧
    decode Config.params (.cmd ⟨0x2002, 8, 0, []⟩) = .ok (.cfgWr .minLen 8) ∧
      decode Config.params (.cmd ⟨0x2111, 0, 0, []⟩) = .ok (.cfgRd .qcount) ∧
        decode Config.params (.cmd ⟨0x3000, 7, 0, [250, 2500]⟩) = .ok (.decSubmit 7 [250, 2500]) ∧
          decode Config.params (.cmd ⟨0x4000, 0, 0, [0x31]⟩) = .ok (.encEncode [0x31]) ∧
            decode Config.params (.event 0x1000003E8) = .ok (.edge .high 1000)

/-- Decode and encode agree: no bit of a well-formed operation is dropped. -/
def Obligations.DecodeOfEncodeIsTheOperation : Prop :=
  ∀ (params : Params) (i : Instr), WellFormed params i → decode params (encode i) = .ok i

/-- Each port word has one meaning: a word that decodes is the encoding of the well-formed operation it decodes to. -/
def Obligations.EveryDecodableWordIsAnEncoding : Prop :=
  ∀ (params : Params) (p : PortWord) (i : Instr), decode params p = .ok i → WellFormed params i ∧ encode i = p

/-- R119, R121: the numbers of the statuses and of the decode errors. -/
def Obligations.StatusAndErrorCodesAreTheTables : Prop :=
  [Status.ok, .illegal, .clockNotStarted, .clockAlreadyStarted, .decoderStopped, .invalidBits, .empty,
        .queueFull].map statusCode = [0x00, 0x01, 0x02, 0x03, 0x04, 0x05, 0x06, 0x07] ∧
    [DecodeError.insufficientData, .invalidTimings, .startMarkerNotFound, .invalidSignals,
          .endMarkerNotFound].map errorCode = [1, 2, 3, 4, 5] ∧
      [DecodeError.insufficientData, .invalidTimings, .startMarkerNotFound, .invalidSignals,
          .endMarkerNotFound].map diagnostic =
        ["insufficient data", "invalid timings", "start marker not found", "invalid signals received",
          "end marker not found"]

/-- R124: CAP.CONFIG is three writes of its operands, told by their encodings and by their words, and CFG.DEFAULTS is
those writes of the source's defaults, which decode to them. RES.DRAIN, where no join is pending, is RES.POP repeated until
the response is EMPTY: one for each record, each answered OK, and one more. How a line is read, and that the bench's tick
input stands while it runs, are the model's choices, logs 3 and 16. -/
def Obligations.PseudoInstructionsExpandToTheirWrites : Prop :=
  (∀ s e m : Word,
      configWords s e m = [encode (.cfgWr .startDur s), encode (.cfgWr .endDur e), encode (.cfgWr .minLen m)] ∧
        configWords s e m = [.cmd ⟨0x2000, s, 0, []⟩, .cmd ⟨0x2001, e, 0, []⟩, .cmd ⟨0x2002, m, 0, []⟩]) ∧
    (∀ s e m : Nat, s < 2 ^ 64 → e < 2 ^ 64 → m < 2 ^ 64 →
        assembleOperands "CAP.CONFIG".toList [.num s, .num e, .num m] =
          some (.words (configWords (BitVec.ofNat 64 s) (BitVec.ofNat 64 e) (BitVec.ofNat 64 m)))) ∧
      assembleLine "CFG.DEFAULTS".toList = some (.words (configWords 200 5000 64)) ∧
        (configWords 200 5000 64).map (decode Config.params) =
            [.ok (.cfgWr .startDur 200), .ok (.cfgWr .endDur 5000), .ok (.cfgWr .minLen 64)] ∧
          assembleLine "RES.DRAIN".toList = some .drain ∧
            ∀ b : Bench, b.machine.chan.joinPending = false →
              let records := b.machine.chan.res
              benchLine .drain b = benchLine (.words (List.replicate (records.length + 1) (encode .resPop))) b ∧
                benchLine .drain b =
                    [{ b with
                        machine := answered .empty 0 []
                          { b.machine with
                            env := { b.machine.env with tickNow := b.tick }
                            chan := { b.machine.chan with res := [] } } }] ∧
                  ∀ k < records.length,
                    ∃ t value digits,
                      benchLine (.words (List.replicate (k + 1) (encode .resPop))) b = [{ b with machine := t }] ∧
                        t.chan.res = records.drop (k + 1) ∧ t.chan.response = some ⟨.ok, value, digits⟩

/-! ## The clock -/

/-- R150: with `MAX_TICK` = 2^32 the delta is the difference modulo 2^32; with 2^32 − 1 the wrapped branch gives one less. -/
def Obligations.WrapsubIsTheDifferenceModulo : Prop :=
  ∀ new old : Tick,
    wrapsub32 .pow32 new old = (new - old).toNat ∧
      wrapsub32 .pow32MinusOne new old =
        if new.toNat < old.toNat then (new - old).toNat - 1 else (new - old).toNat

/-- R151, with its encoding and every error. -/
def Obligations.ClkStartInitializesTheClockOnce : Prop :=
  (∀ (c : Command) (s : State), s.chan.joinPending = false → opField c = 0x01 →
      portStep (.cmd c) s =
        if oneTick c then exec (.clkStart (c.a0.setWidth 32)) s else .next (illegal s)) ∧
    ∀ (refTick : Tick) (s : State),
      exec (.clkStart refTick) s =
        .next
          (if s.clk.started then answered .clockAlreadyStarted 0 [] s
          else answered .ok 0 [] { s with clk := ⟨true, refTick, 0, true, false, false⟩ })

/-- R152 and R153, with its encoding and every error. -/
def Obligations.ClkNowSamplesAndAnswersTheTotal : Prop :=
  (∀ (c : Command) (s : State), s.chan.joinPending = false → opField c = 0x02 →
      portStep (.cmd c) s = if noOperand c then exec .clkNow s else .next (illegal s)) ∧
    ∀ s : State,
      exec .clkNow s =
        .next
          (if s.clk.started then answered .ok (sampled s).clk.total [] (sampled s)
          else answered .clockNotStarted 0 [] s)

/-- R154 and R155, with its encoding and every error: no state but the response changes. -/
def Obligations.ClkConvConvertsAPastTick : Prop :=
  (∀ (c : Command) (s : State), s.chan.joinPending = false → opField c = 0x03 →
      portStep (.cmd c) s =
        if oneTick c then exec (.clkConv (c.a0.setWidth 32)) s else .next (illegal s)) ∧
    ∀ (tick : Tick) (s : State),
      exec (.clkConv tick) s =
        .next
          (if s.clk.started then
            answered .ok (s.clk.total - BitVec.ofNat 64 (wrapsub32 s.params.maxTick s.clk.lastTick tick)) [] s
          else answered .clockNotStarted 0 [] s)

/-- R157, with its encoding and its error. -/
def Obligations.ClkStopSignalsTheRefreshTask : Prop :=
  (∀ (c : Command) (s : State), s.chan.joinPending = false → opField c = 0x04 →
      portStep (.cmd c) s = if noOperand c then exec .clkStop s else .next (illegal s)) ∧
    ∀ s : State,
      exec .clkStop s =
        .next
          (answered .ok 0 []
            (if s.clk.refreshRunning then { s with clk := { s.clk with refreshStop := true, refreshEv := true } }
            else s))

/-- R158 and R159: the refresh task's two steps, each enabled as its rule says. A step scheduled while it is not enabled
holds: the model's choice, log 2. -/
def Obligations.RefreshTaskSamplesWakesAndExits : Prop :=
  ∀ s : State,
    stepIs .clkrTimeout s s.clk.refreshRunning
        (if s.clk.refreshStop then { s with clk := { s.clk with refreshRunning := false } } else sampled s) ∧
      stepIs .clkrWake s (s.clk.refreshRunning && s.clk.refreshEv)
        { s with
          clk :=
            { s.clk with
              refreshEv := false
              refreshRunning := if s.clk.refreshStop then false else s.clk.refreshRunning } }

/-- R160: under the single-wrap premise CLK.NOW answers the time since CLK.START, and CLK.START makes the clock right. -/
def Obligations.ClkNowAnswersTheTimeSinceStart : Prop :=
  (∀ (real : Nat) (s : State), s.clk.started = false → s.params.maxTick = .pow32 →
      ∃ t, exec (.clkStart (tickAt real)) s = .next t ∧ ClockRight real real t) ∧
    ∀ (origin before after : Nat) (s : State), ClockRight origin before s → singleWrap before after →
      s.env.tickNow = tickAt after →
        ∃ t, exec .clkNow s = .next t ∧ ClockRight origin after t ∧
          t.chan.response = some ⟨.ok, BitVec.ofNat 64 (after - origin), []⟩

/-- R160, R345: under the single-wrap premise every step but reset leaves a right clock right, whether it samples (CLK.NOW,
CLKR.TIMEOUT, CAP.EDGE) or not. -/
def Obligations.EveryStepKeepsTheClockRight : Prop :=
  ∀ (origin before after : Nat) (s t : State), ClockRight origin before s → singleWrap before after →
    (nextStimulus s).tickNow = tickAt after → (nextStimulus s).action ≠ .reset → step s = .next t →
      ClockRight origin after t ∨ (ClockRight origin before t ∧ t.clk.total = s.clk.total)

/-- R160, R161: inside the validity window CLK.CONV answers the tick's true time, whenever it is asked. -/
def Obligations.ClkConvIsTrueInsideTheWindow : Prop :=
  ∀ (origin recorded real : Nat) (s : State), ClockRight origin real s → origin ≤ recorded → recorded ≤ real →
    real < recorded + 2 ^ 32 →
      exec (.clkConv (tickAt recorded)) s = .next (answered .ok (BitVec.ofNat 64 (recorded - origin)) [] s)

/-- R162: a sample adds the time since the last one modulo 2^32; with less than 2^32 between samples nothing is lost. -/
def Obligations.LostWrapsAreWholePeriods : Prop :=
  ∀ (before after : Nat) (s : State), s.params.maxTick = .pow32 → before ≤ after → s.clk.lastTick = tickAt before →
    (clkNow (tickAt after) s).clk.total = s.clk.total + BitVec.ofNat 64 ((after - before) % 2 ^ 32)

/-- R160: while the total stays below 2^64, no step but reset makes a started clock's total smaller, and one step adds
less than 2^32. -/
def Obligations.TotalNeverDecreases : Prop :=
  ∀ s t : State, step s = .next t → (nextStimulus s).action ≠ .reset → s.clk.started = true →
    s.clk.total.toNat + 2 ^ 32 ≤ 2 ^ 64 →
      t.clk.started = true ∧ s.clk.total.toNat ≤ t.clk.total.toNat ∧
        t.clk.total.toNat < s.clk.total.toNat + 2 ^ 32

/-- R345: a refresh taken in time keeps the single-wrap premise, for every period below the wraparound. -/
def Obligations.TimelyRefreshKeepsTheSingleWrapPremise : Prop :=
  ∀ (l : Literals) (before after : Nat), Literals.Ok l → refreshInTime l.refreshPeriod before after →
    singleWrap before after

/-! ## Edge capture -/

/-- R180, with its encoding and every error. -/
def Obligations.CapStartNeedsAStartedClock : Prop :=
  (∀ (c : Command) (s : State), s.chan.joinPending = false → opField c = 0x10 →
      portStep (.cmd c) s = if noOperand c then exec .capStart s else .next (illegal s)) ∧
    ∀ s : State,
      exec .capStart s =
        .next
          (if s.clk.started then answered .ok 0 [] { s with cap := { s.cap with enabled := true } }
          else answered .clockNotStarted 0 [] s)

/-- R181, with its encoding and its error: the partial frame is discarded and nothing is enqueued. -/
def Obligations.CapStopAbandonsTheFrame : Prop :=
  (∀ (c : Command) (s : State), s.chan.joinPending = false → opField c = 0x11 →
      portStep (.cmd c) s = if noOperand c then exec .capStop s else .next (illegal s)) ∧
    ∀ s : State,
      exec .capStop s =
        .next
          (answered .ok 0 []
            { s with cap := { enabled := false, lastLevel := none, lastTime := s.cap.lastTime, start := none, buf := [] } })

/-- EDGE completes in every state, and leaves the configuration, the channels, the environment, the parameters, the
worker and the stop flags alone. -/
def Obligations.EdgeAlwaysCompletes : Prop :=
  ∀ (level : Level) (tick : Tick) (s : State),
    ∃ t, exec (.edge level tick) s = .next t ∧ t.cfg = s.cfg ∧ t.chan = s.chan ∧ t.env = s.env ∧
      t.params = s.params ∧ t.dec.worker = s.dec.worker ∧ t.dec.stop = s.dec.stop ∧ t.cap.enabled = s.cap.enabled ∧
        t.clk = (if s.cap.enabled then (sampled s).clk else s.clk)

/-- R183: an edge while capture is disabled changes no state at all. -/
def Obligations.EdgeIsDroppedWhileDisabled : Prop :=
  ∀ (level : Level) (tick : Tick) (s : State), s.cap.enabled = false → exec (.edge level tick) s = .next s

/-- R184, R185: an edge whose level equals the last one samples the clock and changes nothing else. -/
def Obligations.DuplicateEdgeOnlySamplesTheClock : Prop :=
  ∀ (level : Level) (tick : Tick) (s : State), s.cap.enabled = true → s.cap.lastLevel = some level →
    exec (.edge level tick) s = .next (sampled s)

/-- R186 to R188, R193: an accepted edge while not accumulating. -/
def Obligations.IdleEdgeRecordsCommitsOrResetsTheStart : Prop :=
  ∀ (level : Level) (tick : Tick) (s : State), s.cap.enabled = true → s.cap.lastLevel ≠ some level → s.cap.buf = [] →
    let time := edgeTime tick s
    let after (start : Option Micros) (buf : List Duration) : State :=
      { sampled s with
        cap := { enabled := true, lastLevel := some level, lastTime := time, start := start, buf := buf } }
    exec (.edge level tick) s =
      .next
        (match level, s.cap.start with
        | .high, none => after (some time) []
        | .low, some st =>
          if s.cfg.startDur.toNat ≤ (time - st).toNat ∧ (time - st).toNat < s.cfg.endDur.toNat then
            after (some st) [time - st]
          else after none []
        | .high, some _ => after none []
        | .low, none => after none [])

/-- R189, R190, R193: an accepted edge while accumulating that does not finish the message. -/
def Obligations.EdgeInsideAMessageAppendsItsDuration : Prop :=
  ∀ (level : Level) (tick : Tick) (s : State), s.cap.enabled = true → s.cap.lastLevel ≠ some level → s.cap.buf ≠ [] →
    (edgeTime tick s - s.cap.lastTime).toNat ≤ s.cfg.endDur.toNat → s.cap.buf.length + 1 < s.params.maxLen →
      exec (.edge level tick) s =
        .next
          { sampled s with
            cap :=
              { enabled := true, lastLevel := some level, lastTime := edgeTime tick s, start := s.cap.start
                buf := s.cap.buf ++ [edgeTime tick s - s.cap.lastTime] } }

/-- R190 to R193: the edge that finishes a message hands it over if it is long enough, with its start time, and may start
the next one. -/
def Obligations.FinishingEdgeHandsTheMessageOver : Prop :=
  ∀ (level : Level) (tick : Tick) (st : Micros) (s : State), s.cap.enabled = true → s.cap.lastLevel ≠ some level →
    s.cap.buf ≠ [] → s.cap.start = some st →
      (s.cfg.endDur.toNat < (edgeTime tick s - s.cap.lastTime).toNat ∨ s.params.maxLen ≤ s.cap.buf.length + 1) →
        let seq := s.cap.buf ++ [edgeTime tick s - s.cap.lastTime]
        let handed := if s.cfg.minLen.toNat ≤ seq.length then enqueued seq st (sampled s) else sampled s
        exec (.edge level tick) s =
          .next
            { handed with
              cap :=
                { enabled := true, lastLevel := some level, lastTime := edgeTime tick s
                  start := if level = .high then some (edgeTime tick s) else none, buf := [] } }

/-- R198, item 7: CAP never hands over a sequence shorter than MIN_LEN or longer than the cap, and the last duration
exceeds END_DUR unless the cap was reached. -/
def Obligations.CaptureHandsOverOnlyLegalSequences : Prop :=
  ∀ (level : Level) (tick : Tick) (s t : State), s.Inv → exec (.edge level tick) s = .next t →
    t.dec.queue = s.dec.queue ∨
      ∃ seq st, t.dec.queue = s.dec.queue ++ [⟨seq, st⟩] ∧ s.cap.start = some st ∧
        max s.cfg.minLen.toNat 1 ≤ seq.length ∧ seq.length ≤ s.params.maxLen ∧
          (seq.length = s.params.maxLen ∨ ∃ d, seq.getLast? = some d ∧ s.cfg.endDur.toNat < d.toNat)

/-- The framer captures what the line sends (R186 to R192, R199): from an idle framer, a rising edge and then
alternating edges, each `seq[i]` after the one before, hand over exactly `seq` with the first edge's time, when the
first duration qualifies, no inner duration exceeds END_DUR, and the last one does or the cap is reached. -/
def Obligations.FramerCapturesExactlyTheSequenceSent : Prop :=
  ∀ (tick : Tick) (first last : Duration) (inner : List Duration) (s : State),
    s.params.maxTick = .pow32 → s.cap.enabled = true → s.cap.buf = [] → s.cap.start = none →
      s.cap.lastLevel ≠ some .high → s.cfg.startDur ≤ first → first < s.cfg.endDur →
        (∀ d ∈ first :: inner ++ [last], d.toNat < 2 ^ 32) → (∀ d ∈ inner, d ≤ s.cfg.endDur) →
          inner.length + 2 ≤ s.params.maxLen → (s.cfg.endDur < last ∨ inner.length + 2 = s.params.maxLen) →
            s.cfg.minLen.toNat ≤ inner.length + 2 →
              let rising := afterEdge .high tick s
              let seq := first :: inner ++ [last]
              let sent := afterEdges .low tick seq rising
              sent.dec = (enqueued seq rising.cap.lastTime s).dec ∧ sent.cap.buf = []

/-! ## Configuration and status registers -/

/-- R196, with its encoding and every error. -/
def Obligations.CfgWrWritesOneThreshold : Prop :=
  (∀ (c : Command) (s : State), s.chan.joinPending = false → opField c = 0x20 →
      portStep (.cmd c) s =
        if c.a1 = 0 ∧ c.payload = [] then
          if selField c = 0x00 then exec (.cfgWr .startDur c.a0) s
          else if selField c = 0x01 then exec (.cfgWr .endDur c.a0) s
          else if selField c = 0x02 ∧ c.a0.toNat < 2 ^ 32 then exec (.cfgWr .minLen c.a0) s
          else .next (illegal s)
        else .next (illegal s)) ∧
    ∀ (value : Word) (s : State),
      exec (.cfgWr .startDur value) s = .next (answered .ok 0 [] { s with cfg := { s.cfg with startDur := value } }) ∧
        exec (.cfgWr .endDur value) s = .next (answered .ok 0 [] { s with cfg := { s.cfg with endDur := value } }) ∧
          (value.toNat < 2 ^ 32 →
            exec (.cfgWr .minLen value) s =
              .next (answered .ok 0 [] { s with cfg := { s.cfg with minLen := value.setWidth 32 } }))

/-- R117: CFG.WR of a read-only register or of a MIN_LEN wider than 32 bits, and payloads over the caps, answer ILLEGAL in
the meaning too, before every other condition (R304). No port carries such a term: the model's choice, log 12. -/
def Obligations.IllFormedOperationsAnswerIllegal : Prop :=
  ∀ (i : Instr) (s : State), ¬WellFormed s.params i → exec i s = .next (illegal s)

/-- R197, with its encoding and its error: the read changes nothing but the response. -/
def Obligations.CfgRdReadsWithoutSideEffect : Prop :=
  (∀ (c : Command) (s : State), s.chan.joinPending = false → opField c = 0x21 →
      portStep (.cmd c) s =
        if noFields c then
          if selField c = 0x00 then exec (.cfgRd .startDur) s
          else if selField c = 0x01 then exec (.cfgRd .endDur) s
          else if selField c = 0x02 then exec (.cfgRd .minLen) s
          else if selField c = 0x10 then exec (.cfgRd .status) s
          else if selField c = 0x11 then exec (.cfgRd .qcount) s
          else if selField c = 0x12 then exec (.cfgRd .qdrop) s
          else .next (illegal s)
        else .next (illegal s)) ∧
    ∀ s : State,
      exec (.cfgRd .startDur) s = .next (answered .ok s.cfg.startDur [] s) ∧
        exec (.cfgRd .endDur) s = .next (answered .ok s.cfg.endDur [] s) ∧
          exec (.cfgRd .minLen) s = .next (answered .ok (BitVec.ofNat 64 s.cfg.minLen.toNat) [] s) ∧
            exec (.cfgRd .status) s = .next (answered .ok (BitVec.ofNat 64 (statusWord s).toNat) [] s) ∧
              exec (.cfgRd .qcount) s =
                  .next (answered .ok (BitVec.ofNat 64 (min s.dec.queue.length (2 ^ 32 - 1))) [] s) ∧
                exec (.cfgRd .qdrop) s = .next (answered .ok (BitVec.ofNat 64 s.dec.qDrop.toNat) [] s)

/-- R46: each bit of STATUS, and its value after reset. -/
def Obligations.StatusBitsShowTheirFlags : Prop :=
  statusWord State.reset = 0x10 ∧ ∀ s : State,
    ((statusWord s).getLsbD 0 = true ↔ s.clk.started = true) ∧
      ((statusWord s).getLsbD 1 = true ↔ s.clk.refreshRunning = true) ∧
        ((statusWord s).getLsbD 2 = true ↔ s.cap.enabled = true) ∧
          ((statusWord s).getLsbD 3 = true ↔ 0 < s.cap.buf.length) ∧
            ((statusWord s).getLsbD 4 = true ↔ s.dec.worker ≠ .exited) ∧ (statusWord s).toNat < 32

/-! ## The decoder: queue, worker, result channel -/

/-- R231: the bounded enqueue. -/
def Obligations.EnqueueAppendsSignalsOrCountsADrop : Prop :=
  ∀ (seq : List Duration) (t0 : Micros) (s : State),
    decEnqueue seq t0 s = enqueued seq t0 s ∧ enqueueStatus s = enqueueAnswer s

/-- R230, with its encoding and every error. -/
def Obligations.DecSubmitEnqueuesAFrame : Prop :=
  (∀ (c : Command) (s : State), s.chan.joinPending = false → opField c = 0x30 →
      portStep (.cmd c) s =
        if selField c = 0 ∧ c.a1 = 0 ∧ c.payload.length ≤ s.params.maxLen then exec (.decSubmit c.a0 c.payload) s
        else .next (illegal s)) ∧
    ∀ (t0 : Micros) (seq : List Duration) (s : State), seq.length ≤ s.params.maxLen →
      exec (.decSubmit t0 seq) s = .next (answered (enqueueAnswer s) 0 [] (enqueued seq t0 s))

/-- R248, with its encoding and its error: the response waits for the join, or comes at once after the exit. That the port
shows no response meanwhile is the model's choice, log 5. -/
def Obligations.DecShutdownStopsTheWorkerAndHoldsItsResponse : Prop :=
  (∀ (c : Command) (s : State), s.chan.joinPending = false → opField c = 0x31 →
      portStep (.cmd c) s = if noOperand c then exec .decShutdown s else .next (illegal s)) ∧
    ∀ s : State,
      exec .decShutdown s =
        .next
          (if s.dec.worker = .exited then answered .ok 0 [] s
          else
            { s with
              dec := { s.dec with stop := true, qEv := true }
              chan := { s.chan with joinPending := true, response := none } })

/-- R232 to R235: the worker's four steps, each enabled as its rule says. A step scheduled while it is not enabled holds:
the model's choice, log 2. -/
def Obligations.WorkerStepsFollowTheirRules : Prop :=
  ∀ s : State,
    stepIs .workerWake s (s.dec.worker == .waiting && s.dec.qEv)
        { s with dec := { s.dec with qEv := false, worker := if s.dec.stop then .exited else .draining } } ∧
      stepIs .workerIdle s (s.dec.worker == .draining && s.dec.queue == [])
        { s with dec := { s.dec with worker := .waiting } } ∧
        stepIs .workerExit s (s.dec.worker == .draining && s.dec.stop)
          { s with dec := { s.dec with worker := .exited } } ∧
          (s.dec.queue = [] → agentStep .workerDecode s = s) ∧
            ∀ (e : QueueEntry) (rest : List QueueEntry), s.dec.queue = e :: rest →
              stepIs .workerDecode s (s.dec.worker == .draining && !full s.params.resultDepth s.chan.res.length)
                { s with
                  dec := { s.dec with queue := rest }
                  chan := { s.chan with res := s.chan.res ++ [decodeFrame s.params e.seq] } }

/-- R236: once the stop flag is set, the worker may decode any prefix of the queue, with room in the result channel, and
then exit; the rest stays queued. -/
def Obligations.AnyPrefixMayBeDecodedAtShutdown : Prop :=
  ∀ (k : Nat) (s : State), s.dec.worker = .draining → s.dec.stop = true → k ≤ s.dec.queue.length →
    withinDepth s.params.resultDepth (s.chan.res.length + k) →
      agentRun (List.replicate k .workerDecode ++ [.workerExit]) s =
        some
          { s with
            dec := { s.dec with queue := s.dec.queue.drop k, worker := .exited }
            chan :=
              { s.chan with
                res := s.chan.res ++
                  (s.dec.queue.take k).map fun e => decodeFrame s.params e.seq } }

/-- R248, R249, R351: from every state of the invariant in which a join is pending, at most two steps of the worker and
the port answer the shutdown, whatever stands in the queue and in the result channel. The
invariant's clause on the response is the model's choice, log 5. -/
def Obligations.ShutdownCanAlwaysBeAnswered : Prop :=
  ∀ s : State, s.Inv → s.chan.joinPending = true →
    ∃ as t, as.length ≤ 2 ∧ agentRun as s = some t ∧ t.dec.worker = .exited ∧ t.chan.joinPending = false ∧
      t.chan.response = some ⟨.ok, 0, []⟩ ∧ t.chan.res = s.chan.res

/-- R249: the join completion. Scheduled while it is not enabled it holds: the model's choice, log 2. -/
def Obligations.JoinCompletionAnswersOk : Prop :=
  ∀ s : State,
    stepIs .joinDone s (s.chan.joinPending && s.dec.worker == .exited)
      { s with chan := { s.chan with joinPending := false, response := some ⟨.ok, 0, []⟩ } }

/-- R82 to R84: signals collapse, one wait clears the event, and a wait holds while the event is clear. -/
def Obligations.SignalsCollapseIntoOneWakeup : Prop :=
  ∀ s : State,
    signalQueue (signalQueue s) = signalQueue s ∧ (signalQueue s).dec.qEv = true ∧
      signalRefresh (signalRefresh s) = signalRefresh s ∧ (signalRefresh s).clk.refreshEv = true ∧
        (perform .workerWake s).dec.qEv = false ∧ (perform .clkrWake s).clk.refreshEv = false ∧
          (s.dec.qEv = false → enabled .workerWake s = false) ∧ (s.clk.refreshEv = false → enabled .clkrWake s = false)

/-- R252, with its encoding and every error, and R120: a message is its digits with code 0, an error its code alone. -/
def Obligations.ResPopTakesTheOldestRecord : Prop :=
  (∀ (c : Command) (s : State), s.chan.joinPending = false → opField c = 0x50 →
      portStep (.cmd c) s = if noOperand c then exec .resPop s else .next (illegal s)) ∧
    (∀ s : State, s.chan.res = [] → exec .resPop s = .next (answered .empty 0 [] s)) ∧
      (∀ (ds : List Digit) (rest : List ResultRec) (s : State), s.chan.res = .message ds :: rest →
          exec .resPop s =
            .next
              (answered .ok 0 (ds.map fun d => BitVec.ofNat 64 d.val) { s with chan := { s.chan with res := rest } })) ∧
        ∀ (e : DecodeError) (rest : List ResultRec) (s : State), s.chan.res = .error e :: rest →
          exec .resPop s =
            .next
              (answered .ok (BitVec.ofNat 64 (errorNumber e)) [] { s with chan := { s.chan with res := rest } })

/-! ## The decode function and the encoder -/

/-- R100: for every ordered set of bounds a symbol is given exactly on its range; with the spec's bounds these are the
four ranges, and none exactly on the gaps. -/
def Obligations.ClassificationIsTheFourRanges : Prop :=
  (∀ (l : Literals) (d : Duration), Literals.Ok l →
      (classify l.bounds d = some .short ↔ l.bounds.shortMin ≤ d.toNat ∧ d.toNat ≤ l.bounds.shortMax) ∧
        (classify l.bounds d = some .long ↔ l.bounds.longMin ≤ d.toNat ∧ d.toNat ≤ l.bounds.longMax) ∧
          (classify l.bounds d = some .extraLong ↔
              l.bounds.extraLongMin ≤ d.toNat ∧ d.toNat ≤ l.bounds.extraLongMax) ∧
            (classify l.bounds d = some .megaLong ↔
              l.bounds.megaLongMin ≤ d.toNat ∧ d.toNat ≤ l.bounds.megaLongMax)) ∧
    ∀ d : Duration,
      (classify Config.bounds d = some .short ↔ 100 ≤ d.toNat ∧ d.toNat ≤ 500) ∧
        (classify Config.bounds d = some .long ↔ 900 ≤ d.toNat ∧ d.toNat ≤ 1800) ∧
          (classify Config.bounds d = some .extraLong ↔ 2000 ≤ d.toNat ∧ d.toNat ≤ 3200) ∧
            (classify Config.bounds d = some .megaLong ↔ 5000 ≤ d.toNat) ∧
              (classify Config.bounds d = none ↔
                d.toNat < 100 ∨ (500 < d.toNat ∧ d.toNat < 900) ∨ (1800 < d.toNat ∧ d.toNat < 2000) ∨
                  (3200 < d.toNat ∧ d.toNat < 5000))

/-- R238: the decode function is the rule's pseudocode over offsets, for all parameters. -/
def Obligations.DecodeFollowsThePseudocode : Prop :=
  ∀ (p : Params) (seq : List Duration), decodeFrame p seq = decodeByOffsets p seq

/-- R281: the first character outside '0' to '3' decides, and there is no other error. The spec's code of '0', 0x30, is
presumed ASCII, log 14. -/
def Obligations.EncodeRejectsTheFirstInvalidCharacter : Prop :=
  ∀ (p : Params) (cs : List CharCode) (i : Nat),
    encodeChars p cs = .error i ↔
      (∃ c, cs[i]? = some c ∧ (c.toNat < p.charZero ∨ p.charZero + 3 < c.toNat)) ∧
        ∀ j < i, ∃ c, cs[j]? = some c ∧ p.charZero ≤ c.toNat ∧ c.toNat ≤ p.charZero + 3

/-- R282: the output's length and the duration at every index, and the spec's durations of R106. That the digits' codes
follow the parameter `charZero` and fit 8 bits is presumed and deduced, logs 14 and 20. -/
def Obligations.EncodedFrameHasTheShapeOfR282 : Prop :=
  Config.pulses = ⟨250, 1250, 2500, 10000⟩ ∧
    ∀ (p : Params) (ds : List Digit), Literals.Ok p.toLiterals →
      let out := encodeDigits p.pulses ds
      encodeChars p (digitChars p.charZero ds) = .ok out ∧ out.length = 4 + 4 * ds.length ∧
        (∀ k, 2 * k < out.length → out[2 * k]? = some p.pulses.short) ∧ out[1]? = some p.pulses.extraLong ∧
          out[3 + 4 * ds.length]? = some p.pulses.megaLong ∧
            ∀ (k : Nat) (d : Digit), ds[k]? = some d →
              out[3 + 4 * k]? = some (if d = 1 ∨ d = 3 then p.pulses.long else p.pulses.short) ∧
                out[5 + 4 * k]? = some (if d = 0 ∨ d = 3 then p.pulses.long else p.pulses.short)

/-- R284: every message survives the encoder and the decoder, and with START_AT_ZERO_IS_ERROR none does; for all
parameters in the relations the rules rely on, the spec's among them (logs 14 and 20). -/
def Obligations.DecodeOfEncodedDigitsIsTheMessage : Prop :=
  Literals.Ok Config.literals ∧
    ∀ (p : Params) (ds : List Digit), Literals.Ok p.toLiterals → 1 ≤ ds.length →
      encodeChars p (digitChars p.charZero ds) = .ok (encodeDigits p.pulses ds) ∧
        decodeFrame p (encodeDigits p.pulses ds) =
          if p.startAtZeroIsError then .error .startMarkerNotFound else .message ds

/-- R280, with its encoding and every error: no state but the response changes. -/
def Obligations.EncEncodeAnswersThePulseDurations : Prop :=
  (∀ (c : Command) (s : State), s.chan.joinPending = false → opField c = 0x40 →
      portStep (.cmd c) s =
        if selField c = 0 ∧ c.a0 = 0 ∧ c.a1 = 0 ∧ c.payload.length ≤ s.params.encMaxDigits ∧ (∀ w ∈ c.payload, w.toNat < 256) then
          exec (.encEncode (c.payload.map fun w => w.setWidth 8)) s
        else .next (illegal s)) ∧
    ∀ (cs : List CharCode) (s : State), cs.length ≤ s.params.encMaxDigits →
      (∀ out, encodeChars s.params cs = .ok out →
          exec (.encEncode cs) s = .next (answered .ok (BitVec.ofNat 64 out.length) out s)) ∧
        ∀ i, encodeChars s.params cs = .error i →
          exec (.encEncode cs) s = .next (answered .invalidBits (BitVec.ofNat 64 i) [] s)

/-! ## The whole machine -/

/-- The invariant holds after reset. Its clause `joinUnanswered` is the model's choice, log 5, and three relations of its
clause `literalsOk` are deduced, logs 14 and 20. -/
def Obligations.ResetSatisfiesTheInvariant : Prop := State.reset.Inv

/-- R198, R237: every step keeps the invariant, from every state that has it. Its clause `joinUnanswered` is the model's
choice, log 5, three relations of its clause `literalsOk` are deduced, logs 14 and 20, and that a step scheduled while not
enabled changes nothing is log 2. -/
def Obligations.EveryStepKeepsTheInvariant : Prop :=
  ∀ s t : State, s.Inv → step s = .next t → t.Inv

/-- R300, R318: no step stops the machine. The spec has no fault, which makes this its statement by inference, log 15.
That a step scheduled while not enabled and a command not accepted go on unchanged is the model's choice, log 2, and the
answer of an ill-formed operation its inference, log 12. -/
def Obligations.NoStepStopsTheMachine : Prop :=
  (∀ (i : Instr) (s : State), ∃ t, exec i s = .next t) ∧ ∀ s : State, ∃ t, step s = .next t

/-- R59, R9 to R14: no step changes the parameters, and the reset state has the spec's values; the two capacities are
left open, log 6. The values of MAX_TICK and START_AT_ZERO_IS_ERROR are the spec's choices, log 7, the code 0x30 is
presumed, log 14, and that reset leaves the parameters is the model's choice, logs 11 and 20. -/
def Obligations.ParametersNeverChange : Prop :=
  State.reset.params =
      { maxLen := 200, decMinLen := 6, encMaxDigits := 49, refreshPeriod := 60000000, defStartDur := 200
        defEndDur := 5000, defMinLen := 64, bounds := ⟨100, 500, 900, 1800, 2000, 3200, 5000, 2 ^ 64 - 1⟩
        pulses := ⟨250, 1250, 2500, 10000⟩, charZero := 0x30, queueDepth := Config.queueDepth
        resultDepth := Config.resultDepth, maxTick := .pow32, startAtZeroIsError := false } ∧
    ∀ s t : State, Reaches s t → t.params = s.params

/-- R318: what DEC.SHUTDOWN and CLK.STOP end stays ended until reset, and an exited worker removes no frame. -/
def Obligations.PermanentStopsLastUntilReset : Prop :=
  ∀ s t : State, step s = .next t → (nextStimulus s).action ≠ .reset →
    (s.dec.stop = true → t.dec.stop = true) ∧
      (s.dec.worker = .exited → t.dec.worker = .exited ∧ t.chan.res.length ≤ s.chan.res.length ∧
        ∃ es, t.dec.queue = s.dec.queue ++ es) ∧
        (s.clk.started = true → s.clk.refreshRunning = false → t.clk.refreshRunning = false) ∧
          (s.clk.started = true → s.clk.refreshStop = true → t.clk.refreshStop = true)

/-- R51: only DEC.SHUTDOWN sets the worker's stop flag. -/
def Obligations.OnlyShutdownStopsTheDecoder : Prop :=
  ∀ s t : State, step s = .next t → s.dec.stop = false → t.dec.stop = true →
    ∃ p, (nextStimulus s).action = .port p ∧ decode s.params p = .ok .decShutdown

/-- R32: every field of every group changes only by its own operations and steps, or by reset. That a step scheduled while
not enabled changes nothing is the model's choice, log 2. The last clause is about the model's own field: R128 places a
response for a command, and that the port shows it until the next one is the model's choice, log 5. -/
def Obligations.GroupsChangeOnlyByTheirOwnOperations : Prop :=
  ∀ s t : State, step s = .next t → (nextStimulus s).action ≠ .reset →
    (t.clk.started ≠ s.clk.started → movedBy s [] ["CLK.START"]) ∧
      (t.clk.lastTick ≠ s.clk.lastTick → movedBy s [.clkrTimeout] ["CLK.START", "CLK.NOW", "EDGE"]) ∧
        (t.clk.total ≠ s.clk.total → movedBy s [.clkrTimeout] ["CLK.START", "CLK.NOW", "EDGE"]) ∧
          (t.clk.refreshRunning ≠ s.clk.refreshRunning → movedBy s [.clkrTimeout, .clkrWake] ["CLK.START"]) ∧
            (t.clk.refreshStop ≠ s.clk.refreshStop → movedBy s [] ["CLK.START", "CLK.STOP"]) ∧
              (t.clk.refreshEv ≠ s.clk.refreshEv → movedBy s [.clkrWake] ["CLK.START", "CLK.STOP"]) ∧
    (t.cap.enabled ≠ s.cap.enabled → movedBy s [] ["CAP.START", "CAP.STOP"]) ∧
      (t.cap.lastLevel ≠ s.cap.lastLevel → movedBy s [] ["CAP.STOP", "EDGE"]) ∧
        (t.cap.lastTime ≠ s.cap.lastTime → movedBy s [] ["EDGE"]) ∧
          (t.cap.start ≠ s.cap.start → movedBy s [] ["CAP.STOP", "EDGE"]) ∧
            (t.cap.buf ≠ s.cap.buf → movedBy s [] ["CAP.STOP", "EDGE"]) ∧
    (t.cfg ≠ s.cfg → movedBy s [] ["CFG.WR"]) ∧
    (t.dec.queue ≠ s.dec.queue → movedBy s [.workerDecode] ["DEC.SUBMIT", "EDGE"]) ∧
      (t.dec.qEv ≠ s.dec.qEv → movedBy s [.workerWake] ["DEC.SUBMIT", "DEC.SHUTDOWN", "EDGE"]) ∧
        (t.dec.stop ≠ s.dec.stop → movedBy s [] ["DEC.SHUTDOWN"]) ∧
          (t.dec.worker ≠ s.dec.worker → movedBy s [.workerWake, .workerIdle, .workerExit] []) ∧
            (t.dec.qDrop ≠ s.dec.qDrop → movedBy s [] ["DEC.SUBMIT", "EDGE"]) ∧
    (t.chan.res ≠ s.chan.res → movedBy s [.workerDecode] ["RES.POP"]) ∧
      (t.chan.joinPending ≠ s.chan.joinPending → movedBy s [.joinDone] ["DEC.SHUTDOWN"]) ∧
        (t.chan.response ≠ s.chan.response → movedByCommandOrJoin s)

/-- R247: the start times carried in the queue influence nothing: machines that differ only in them stay so, step by
step. -/
def Obligations.StartTimesInfluenceNothing : Prop :=
  ∀ s s' t t' : State, forgetStartTimes s = forgetStartTimes s' → step s = .next t → step s' = .next t' →
    forgetStartTimes t = forgetStartTimes t'
end

