-- ==== Sys2Proof/Laws/State.lean ====
section
/-! SUPPORT. What each named update of the state leaves in each group: one lemma per group per update, true by `rfl`.
A claim about a group after an update rewrites with these and unfolds no record. -/

namespace Sys2Proof.Machine

open Sys2Proof

@[simp] theorem respond_clk (st : Status) (v : Word) (p : List Word) (s : State) :
    (respond st v p s).clk = s.clk := rfl
@[simp] theorem respond_cap (st : Status) (v : Word) (p : List Word) (s : State) :
    (respond st v p s).cap = s.cap := rfl
@[simp] theorem respond_cfg (st : Status) (v : Word) (p : List Word) (s : State) :
    (respond st v p s).cfg = s.cfg := rfl
@[simp] theorem respond_dec (st : Status) (v : Word) (p : List Word) (s : State) :
    (respond st v p s).dec = s.dec := rfl
@[simp] theorem respond_chan (st : Status) (v : Word) (p : List Word) (s : State) :
    (respond st v p s).chan = { s.chan with response := some ⟨st, v, p⟩ } := rfl
@[simp] theorem respond_env (st : Status) (v : Word) (p : List Word) (s : State) :
    (respond st v p s).env = s.env := rfl
@[simp] theorem respond_params (st : Status) (v : Word) (p : List Word) (s : State) :
    (respond st v p s).params = s.params := rfl

@[simp] theorem respondOk_clk (s : State) : (respondOk s).clk = s.clk := rfl
@[simp] theorem respondOk_cap (s : State) : (respondOk s).cap = s.cap := rfl
@[simp] theorem respondOk_cfg (s : State) : (respondOk s).cfg = s.cfg := rfl
@[simp] theorem respondOk_dec (s : State) : (respondOk s).dec = s.dec := rfl
@[simp] theorem respondOk_chan (s : State) : (respondOk s).chan = { s.chan with response := some ⟨.ok, 0, []⟩ } := rfl
@[simp] theorem respondOk_env (s : State) : (respondOk s).env = s.env := rfl
@[simp] theorem respondOk_params (s : State) : (respondOk s).params = s.params := rfl

@[simp] theorem respondError_clk (st : Status) (s : State) : (respondError st s).clk = s.clk := rfl
@[simp] theorem respondError_cap (st : Status) (s : State) : (respondError st s).cap = s.cap := rfl
@[simp] theorem respondError_cfg (st : Status) (s : State) : (respondError st s).cfg = s.cfg := rfl
@[simp] theorem respondError_dec (st : Status) (s : State) : (respondError st s).dec = s.dec := rfl
@[simp] theorem respondError_chan (st : Status) (s : State) :
    (respondError st s).chan = { s.chan with response := some ⟨st, 0, []⟩ } := rfl
@[simp] theorem respondError_env (st : Status) (s : State) : (respondError st s).env = s.env := rfl
@[simp] theorem respondError_params (st : Status) (s : State) : (respondError st s).params = s.params := rfl

@[simp] theorem clkNow_clk (t : Tick) (s : State) :
    (clkNow t s).clk =
      { s.clk with total := s.clk.total + BitVec.ofNat 64 (wrapsub32 s.params.maxTick t s.clk.lastTick), lastTick := t } := rfl
@[simp] theorem clkNow_cap (t : Tick) (s : State) : (clkNow t s).cap = s.cap := rfl
@[simp] theorem clkNow_cfg (t : Tick) (s : State) : (clkNow t s).cfg = s.cfg := rfl
@[simp] theorem clkNow_dec (t : Tick) (s : State) : (clkNow t s).dec = s.dec := rfl
@[simp] theorem clkNow_chan (t : Tick) (s : State) : (clkNow t s).chan = s.chan := rfl
@[simp] theorem clkNow_env (t : Tick) (s : State) : (clkNow t s).env = s.env := rfl
@[simp] theorem clkNow_params (t : Tick) (s : State) : (clkNow t s).params = s.params := rfl

@[simp] theorem sampleClock_clk (s : State) : (sampleClock s).clk = (clkNow s.env.tickNow s).clk := rfl
@[simp] theorem sampleClock_cap (s : State) : (sampleClock s).cap = s.cap := rfl
@[simp] theorem sampleClock_cfg (s : State) : (sampleClock s).cfg = s.cfg := rfl
@[simp] theorem sampleClock_dec (s : State) : (sampleClock s).dec = s.dec := rfl
@[simp] theorem sampleClock_chan (s : State) : (sampleClock s).chan = s.chan := rfl
@[simp] theorem sampleClock_env (s : State) : (sampleClock s).env = s.env := rfl
@[simp] theorem sampleClock_params (s : State) : (sampleClock s).params = s.params := rfl

@[simp] theorem signalQueue_clk (s : State) : (signalQueue s).clk = s.clk := rfl
@[simp] theorem signalQueue_cap (s : State) : (signalQueue s).cap = s.cap := rfl
@[simp] theorem signalQueue_cfg (s : State) : (signalQueue s).cfg = s.cfg := rfl
@[simp] theorem signalQueue_dec (s : State) : (signalQueue s).dec = { s.dec with qEv := true } := rfl
@[simp] theorem signalQueue_chan (s : State) : (signalQueue s).chan = s.chan := rfl
@[simp] theorem signalQueue_env (s : State) : (signalQueue s).env = s.env := rfl
@[simp] theorem signalQueue_params (s : State) : (signalQueue s).params = s.params := rfl

@[simp] theorem waitQueue_clk (s : State) : (waitQueue s).clk = s.clk := rfl
@[simp] theorem waitQueue_cap (s : State) : (waitQueue s).cap = s.cap := rfl
@[simp] theorem waitQueue_cfg (s : State) : (waitQueue s).cfg = s.cfg := rfl
@[simp] theorem waitQueue_dec (s : State) : (waitQueue s).dec = { s.dec with qEv := false } := rfl
@[simp] theorem waitQueue_chan (s : State) : (waitQueue s).chan = s.chan := rfl
@[simp] theorem waitQueue_env (s : State) : (waitQueue s).env = s.env := rfl
@[simp] theorem waitQueue_params (s : State) : (waitQueue s).params = s.params := rfl

@[simp] theorem signalRefresh_clk (s : State) : (signalRefresh s).clk = { s.clk with refreshEv := true } := rfl
@[simp] theorem signalRefresh_cap (s : State) : (signalRefresh s).cap = s.cap := rfl
@[simp] theorem signalRefresh_cfg (s : State) : (signalRefresh s).cfg = s.cfg := rfl
@[simp] theorem signalRefresh_dec (s : State) : (signalRefresh s).dec = s.dec := rfl
@[simp] theorem signalRefresh_chan (s : State) : (signalRefresh s).chan = s.chan := rfl
@[simp] theorem signalRefresh_env (s : State) : (signalRefresh s).env = s.env := rfl
@[simp] theorem signalRefresh_params (s : State) : (signalRefresh s).params = s.params := rfl

@[simp] theorem waitRefresh_clk (s : State) : (waitRefresh s).clk = { s.clk with refreshEv := false } := rfl
@[simp] theorem waitRefresh_cap (s : State) : (waitRefresh s).cap = s.cap := rfl
@[simp] theorem waitRefresh_cfg (s : State) : (waitRefresh s).cfg = s.cfg := rfl
@[simp] theorem waitRefresh_dec (s : State) : (waitRefresh s).dec = s.dec := rfl
@[simp] theorem waitRefresh_chan (s : State) : (waitRefresh s).chan = s.chan := rfl
@[simp] theorem waitRefresh_env (s : State) : (waitRefresh s).env = s.env := rfl
@[simp] theorem waitRefresh_params (s : State) : (waitRefresh s).params = s.params := rfl

@[simp] theorem countDrop_clk (s : State) : (countDrop s).clk = s.clk := rfl
@[simp] theorem countDrop_cap (s : State) : (countDrop s).cap = s.cap := rfl
@[simp] theorem countDrop_cfg (s : State) : (countDrop s).cfg = s.cfg := rfl
@[simp] theorem countDrop_dec (s : State) :
    (countDrop s).dec = { s.dec with qDrop := saturatingSucc s.dec.qDrop } := rfl
@[simp] theorem countDrop_chan (s : State) : (countDrop s).chan = s.chan := rfl
@[simp] theorem countDrop_env (s : State) : (countDrop s).env = s.env := rfl
@[simp] theorem countDrop_params (s : State) : (countDrop s).params = s.params := rfl

@[simp] theorem appendEntry_clk (e : QueueEntry) (s : State) : (appendEntry e s).clk = s.clk := rfl
@[simp] theorem appendEntry_cap (e : QueueEntry) (s : State) : (appendEntry e s).cap = s.cap := rfl
@[simp] theorem appendEntry_cfg (e : QueueEntry) (s : State) : (appendEntry e s).cfg = s.cfg := rfl
@[simp] theorem appendEntry_dec (e : QueueEntry) (s : State) :
    (appendEntry e s).dec = { s.dec with queue := s.dec.queue ++ [e], qEv := true } := rfl
@[simp] theorem appendEntry_chan (e : QueueEntry) (s : State) : (appendEntry e s).chan = s.chan := rfl
@[simp] theorem appendEntry_env (e : QueueEntry) (s : State) : (appendEntry e s).env = s.env := rfl
@[simp] theorem appendEntry_params (e : QueueEntry) (s : State) : (appendEntry e s).params = s.params := rfl

@[simp] theorem emit_clk (r : ResultRec) (s : State) : (emit r s).clk = s.clk := rfl
@[simp] theorem emit_cap (r : ResultRec) (s : State) : (emit r s).cap = s.cap := rfl
@[simp] theorem emit_cfg (r : ResultRec) (s : State) : (emit r s).cfg = s.cfg := rfl
@[simp] theorem emit_dec (r : ResultRec) (s : State) : (emit r s).dec = s.dec := rfl
@[simp] theorem emit_chan (r : ResultRec) (s : State) :
    (emit r s).chan = { s.chan with res := s.chan.res ++ [r] } := rfl
@[simp] theorem emit_env (r : ResultRec) (s : State) : (emit r s).env = s.env := rfl
@[simp] theorem emit_params (r : ResultRec) (s : State) : (emit r s).params = s.params := rfl

@[simp] theorem takeStimulus_clk (s : State) : (takeStimulus s).clk = s.clk := rfl
@[simp] theorem takeStimulus_cap (s : State) : (takeStimulus s).cap = s.cap := rfl
@[simp] theorem takeStimulus_cfg (s : State) : (takeStimulus s).cfg = s.cfg := rfl
@[simp] theorem takeStimulus_dec (s : State) : (takeStimulus s).dec = s.dec := rfl
@[simp] theorem takeStimulus_chan (s : State) : (takeStimulus s).chan = s.chan := rfl
@[simp] theorem takeStimulus_env (s : State) : (takeStimulus s).env = advanceEnv s.env (nextStimulus s).tickNow := rfl
@[simp] theorem takeStimulus_params (s : State) : (takeStimulus s).params = s.params := rfl

@[simp] theorem exitRefresh_clk (s : State) : (exitRefresh s).clk = { s.clk with refreshRunning := false } := rfl
@[simp] theorem exitRefresh_cap (s : State) : (exitRefresh s).cap = s.cap := rfl
@[simp] theorem exitRefresh_cfg (s : State) : (exitRefresh s).cfg = s.cfg := rfl
@[simp] theorem exitRefresh_dec (s : State) : (exitRefresh s).dec = s.dec := rfl
@[simp] theorem exitRefresh_chan (s : State) : (exitRefresh s).chan = s.chan := rfl
@[simp] theorem exitRefresh_env (s : State) : (exitRefresh s).env = s.env := rfl
@[simp] theorem exitRefresh_params (s : State) : (exitRefresh s).params = s.params := rfl

@[simp] theorem setWorker_clk (w : WorkerState) (s : State) : (setWorker w s).clk = s.clk := rfl
@[simp] theorem setWorker_cap (w : WorkerState) (s : State) : (setWorker w s).cap = s.cap := rfl
@[simp] theorem setWorker_cfg (w : WorkerState) (s : State) : (setWorker w s).cfg = s.cfg := rfl
@[simp] theorem setWorker_dec (w : WorkerState) (s : State) : (setWorker w s).dec = { s.dec with worker := w } := rfl
@[simp] theorem setWorker_chan (w : WorkerState) (s : State) : (setWorker w s).chan = s.chan := rfl
@[simp] theorem setWorker_env (w : WorkerState) (s : State) : (setWorker w s).env = s.env := rfl
@[simp] theorem setWorker_params (w : WorkerState) (s : State) : (setWorker w s).params = s.params := rfl

@[simp] theorem workerIdle_clk (s : State) : (workerIdle s).clk = s.clk := rfl
@[simp] theorem workerIdle_cap (s : State) : (workerIdle s).cap = s.cap := rfl
@[simp] theorem workerIdle_cfg (s : State) : (workerIdle s).cfg = s.cfg := rfl
@[simp] theorem workerIdle_dec (s : State) : (workerIdle s).dec = { s.dec with worker := .waiting } := rfl
@[simp] theorem workerIdle_chan (s : State) : (workerIdle s).chan = s.chan := rfl
@[simp] theorem workerIdle_env (s : State) : (workerIdle s).env = s.env := rfl
@[simp] theorem workerIdle_params (s : State) : (workerIdle s).params = s.params := rfl

@[simp] theorem workerExit_clk (s : State) : (workerExit s).clk = s.clk := rfl
@[simp] theorem workerExit_cap (s : State) : (workerExit s).cap = s.cap := rfl
@[simp] theorem workerExit_cfg (s : State) : (workerExit s).cfg = s.cfg := rfl
@[simp] theorem workerExit_dec (s : State) : (workerExit s).dec = { s.dec with worker := .exited } := rfl
@[simp] theorem workerExit_chan (s : State) : (workerExit s).chan = s.chan := rfl
@[simp] theorem workerExit_env (s : State) : (workerExit s).env = s.env := rfl
@[simp] theorem workerExit_params (s : State) : (workerExit s).params = s.params := rfl

@[simp] theorem joinDone_clk (s : State) : (joinDone s).clk = s.clk := rfl
@[simp] theorem joinDone_cap (s : State) : (joinDone s).cap = s.cap := rfl
@[simp] theorem joinDone_cfg (s : State) : (joinDone s).cfg = s.cfg := rfl
@[simp] theorem joinDone_dec (s : State) : (joinDone s).dec = s.dec := rfl
@[simp] theorem joinDone_chan (s : State) :
    (joinDone s).chan = { s.chan with joinPending := false, response := some ⟨.ok, 0, []⟩ } := rfl
@[simp] theorem joinDone_env (s : State) : (joinDone s).env = s.env := rfl
@[simp] theorem joinDone_params (s : State) : (joinDone s).params = s.params := rfl

@[simp] theorem holdResponse_clk (s : State) : (holdResponse s).clk = s.clk := rfl
@[simp] theorem holdResponse_cap (s : State) : (holdResponse s).cap = s.cap := rfl
@[simp] theorem holdResponse_cfg (s : State) : (holdResponse s).cfg = s.cfg := rfl
@[simp] theorem holdResponse_dec (s : State) : (holdResponse s).dec = s.dec := rfl
@[simp] theorem holdResponse_chan (s : State) :
    (holdResponse s).chan = { s.chan with joinPending := true, response := none } := rfl
@[simp] theorem holdResponse_env (s : State) : (holdResponse s).env = s.env := rfl
@[simp] theorem holdResponse_params (s : State) : (holdResponse s).params = s.params := rfl

@[simp] theorem restartAt_clk (l : Level) (t : Micros) (s : State) : (restartAt l t s).clk = s.clk := rfl
@[simp] theorem restartAt_cap (l : Level) (t : Micros) (s : State) :
    (restartAt l t s).cap = { s.cap with buf := [], start := match l with | .high => some t | .low => none } := rfl
@[simp] theorem restartAt_cfg (l : Level) (t : Micros) (s : State) : (restartAt l t s).cfg = s.cfg := rfl
@[simp] theorem restartAt_dec (l : Level) (t : Micros) (s : State) : (restartAt l t s).dec = s.dec := rfl
@[simp] theorem restartAt_chan (l : Level) (t : Micros) (s : State) : (restartAt l t s).chan = s.chan := rfl
@[simp] theorem restartAt_env (l : Level) (t : Micros) (s : State) : (restartAt l t s).env = s.env := rfl
@[simp] theorem restartAt_params (l : Level) (t : Micros) (s : State) : (restartAt l t s).params = s.params := rfl

@[simp] theorem recordEdge_clk (l : Level) (t : Micros) (s : State) : (recordEdge l t s).clk = s.clk := rfl
@[simp] theorem recordEdge_cap (l : Level) (t : Micros) (s : State) :
    (recordEdge l t s).cap = { s.cap with lastLevel := some l, lastTime := t } := rfl
@[simp] theorem recordEdge_cfg (l : Level) (t : Micros) (s : State) : (recordEdge l t s).cfg = s.cfg := rfl
@[simp] theorem recordEdge_dec (l : Level) (t : Micros) (s : State) : (recordEdge l t s).dec = s.dec := rfl
@[simp] theorem recordEdge_chan (l : Level) (t : Micros) (s : State) : (recordEdge l t s).chan = s.chan := rfl
@[simp] theorem recordEdge_env (l : Level) (t : Micros) (s : State) : (recordEdge l t s).env = s.env := rfl
@[simp] theorem recordEdge_params (l : Level) (t : Micros) (s : State) : (recordEdge l t s).params = s.params := rfl

@[simp] theorem resetEvent_clk (s : State) : (resetEvent s).clk = (State.ofParams s.params).clk := rfl
@[simp] theorem resetEvent_cap (s : State) : (resetEvent s).cap = (State.ofParams s.params).cap := rfl
@[simp] theorem resetEvent_cfg (s : State) : (resetEvent s).cfg = (State.ofParams s.params).cfg := rfl
@[simp] theorem resetEvent_dec (s : State) : (resetEvent s).dec = (State.ofParams s.params).dec := rfl
@[simp] theorem resetEvent_chan (s : State) : (resetEvent s).chan = (State.ofParams s.params).chan := rfl
@[simp] theorem resetEvent_env (s : State) : (resetEvent s).env = s.env := rfl
@[simp] theorem resetEvent_params (s : State) : (resetEvent s).params = s.params := rfl

end Sys2Proof.Machine
end

