-- ==== Sys2Proof/Laws/Ops.lean ====
section
/-! SUPPORT. What each shared operation can do, said once: a case lemma for every operation that branches, the groups it
leaves alone, and the inversion of `step`. Later proofs cite these and do not unfold the operation. -/

namespace Sys2Proof.Machine

open Sys2Proof

/-! ### Capacities and counts -/

theorem hasRoom_unbounded (n : Nat) : hasRoom .unbounded n = true := by cases n <;> rfl

theorem hasRoom_bounded (p n : Nat) : hasRoom (.bounded p) n = decide (n < p + 1) := by
  cases n <;> simp [hasRoom]

/-- Appending where there is room keeps a channel within its capacity. -/
theorem withinDepth_succ_of_hasRoom {d : Depth} {n : Nat} (h : hasRoom d n = true) : withinDepth d (n + 1) := by
  cases d with
  | unbounded => trivial
  | bounded p =>
    rw [hasRoom_bounded] at h
    have := of_decide_eq_true h
    exact this

/-- A shorter channel is within the capacity too. -/
theorem withinDepth_mono {d : Depth} {m n : Nat} (h : withinDepth d n) (hm : m ≤ n) : withinDepth d m := by
  cases d with
  | unbounded => trivial
  | bounded p => exact Nat.le_trans hm h

theorem withinDepth_zero (d : Depth) : withinDepth d 0 := by
  cases d with
  | unbounded => trivial
  | bounded p => exact Nat.zero_le _

theorem saturatingSucc_toNat (q : BitVec 32) : (saturatingSucc q).toNat = min (q.toNat + 1) (2 ^ 32 - 1) := by
  have := q.isLt
  unfold saturatingSucc
  split
  · rw [BitVec.toNat_add]
    simp
    omega
  · omega

/-! ### The clock -/

/-- The delta is below the tick's period, for both readings of `MAX_TICK`. -/
theorem wrapsub32_lt (m : MaxTick) (new old : Tick) : wrapsub32 m new old < 2 ^ 32 := by
  have hn := new.isLt
  have ho := old.isLt
  unfold wrapsub32
  cases m <;> simp only [maxTickValue, Config.tickMod] <;> split <;> omega

/-- No time passes between a tick and itself. -/
@[simp] theorem wrapsub32_self (m : MaxTick) (t : Tick) : wrapsub32 m t t = 0 := by simp [wrapsub32]

/-! ### The queue -/

/-- The three ways an enqueue goes (43_decoder.md rule R231). -/
theorem decEnqueue_cases (seq : List Duration) (t0 : Micros) (s : State) :
    (s.dec.stop = true ∧ enqueueStatus s = .decoderStopped ∧ decEnqueue seq t0 s = countDrop s) ∨
      (s.dec.stop = false ∧ hasRoom s.params.queueDepth s.dec.queue.length = false ∧ enqueueStatus s = .queueFull ∧
        decEnqueue seq t0 s = countDrop s) ∨
        (s.dec.stop = false ∧ hasRoom s.params.queueDepth s.dec.queue.length = true ∧ enqueueStatus s = .ok ∧
          decEnqueue seq t0 s = appendEntry ⟨seq, t0⟩ s) := by
  unfold decEnqueue enqueueStatus
  cases s.dec.stop <;> cases hasRoom s.params.queueDepth s.dec.queue.length <;> simp

/-- An enqueue changes the decoder's group alone, and of it neither the worker nor the stop flag. -/
theorem decEnqueue_frame (seq : List Duration) (t0 : Micros) (s : State) :
    (decEnqueue seq t0 s).clk = s.clk ∧ (decEnqueue seq t0 s).cap = s.cap ∧ (decEnqueue seq t0 s).cfg = s.cfg ∧
      (decEnqueue seq t0 s).chan = s.chan ∧ (decEnqueue seq t0 s).env = s.env ∧
        (decEnqueue seq t0 s).params = s.params ∧ (decEnqueue seq t0 s).dec.worker = s.dec.worker ∧
          (decEnqueue seq t0 s).dec.stop = s.dec.stop := by
  rcases decEnqueue_cases seq t0 s with ⟨_, _, h⟩ | ⟨_, _, _, h⟩ | ⟨_, _, _, h⟩ <;> rw [h] <;> simp

/-! ### The framing step -/

/-- A hand-off is an enqueue of the message with its start time, or nothing (42_edge_capture.md rule R191). -/
theorem handOff_cases (buf : List Duration) (time : Micros) (s : State) :
    (s.cfg.minLen.toNat ≤ buf.length ∧ handOff buf time s = decEnqueue buf (messageStart buf time s) s) ∨
      (buf.length < s.cfg.minLen.toNat ∧ handOff buf time s = s) := by
  unfold handOff
  split
  · exact .inl ⟨‹_›, rfl⟩
  · exact .inr ⟨by omega, rfl⟩

/-- A hand-off changes the decoder's group alone, and of it neither the worker nor the stop flag. -/
theorem handOff_frame (buf : List Duration) (time : Micros) (s : State) :
    (handOff buf time s).clk = s.clk ∧ (handOff buf time s).cap = s.cap ∧ (handOff buf time s).cfg = s.cfg ∧
      (handOff buf time s).chan = s.chan ∧ (handOff buf time s).env = s.env ∧
        (handOff buf time s).params = s.params ∧ (handOff buf time s).dec.worker = s.dec.worker ∧
          (handOff buf time s).dec.stop = s.dec.stop := by
  rcases handOff_cases buf time s with ⟨_, h⟩ | ⟨_, h⟩ <;> rw [h]
  · exact decEnqueue_frame _ _ _
  · simp

/-- Step 3 changes the framer's pending start or commits a first duration, and nothing else (42_edge_capture.md rules
R186 to R188). -/
theorem idleEdge_cases (level : Level) (time : Micros) (s : State) :
    (level = .high ∧ s.cap.start = none ∧ idleEdge level time s = { s with cap := { s.cap with start := some time } }) ∨
      (∃ st, level = .low ∧ s.cap.start = some st ∧ qualifies s.cfg (time - st) = true ∧
        idleEdge level time s = { s with cap := { s.cap with buf := [time - st] } }) ∨
        idleEdge level time s = { s with cap := { s.cap with start := none } } := by
  unfold idleEdge
  cases level <;> cases h : s.cap.start <;> simp only
  · exact .inr (.inr trivial)
  · split
    · exact .inr (.inl ⟨_, trivial, rfl, ‹_›, rfl⟩)
    · exact .inr (.inr rfl)
  · exact .inl ⟨trivial, trivial, trivial⟩
  · exact .inr (.inr trivial)

/-- Step 4 appends, and finishes the message or goes on (42_edge_capture.md rules R189 to R192). -/
theorem accumEdge_cases (level : Level) (time : Micros) (s : State) :
    (finished s.params.maxLen s.cfg (time - s.cap.lastTime) (s.cap.buf ++ [time - s.cap.lastTime]) = true ∧
        accumEdge level time s = restartAt level time (handOff (s.cap.buf ++ [time - s.cap.lastTime]) time s)) ∨
      (finished s.params.maxLen s.cfg (time - s.cap.lastTime) (s.cap.buf ++ [time - s.cap.lastTime]) = false ∧
        accumEdge level time s = { s with cap := { s.cap with buf := s.cap.buf ++ [time - s.cap.lastTime] } }) := by
  unfold accumEdge
  cases h : finished s.params.maxLen s.cfg (time - s.cap.lastTime) (s.cap.buf ++ [time - s.cap.lastTime]) <;> simp [h]

/-- Steps 2 to 5 (42_edge_capture.md rules R185 to R193). -/
theorem frameEdge_cases (level : Level) (time : Micros) (s : State) :
    (s.cap.lastLevel = some level ∧ frameEdge level time s = s) ∨
      (s.cap.lastLevel ≠ some level ∧ s.cap.buf = [] ∧
        frameEdge level time s = recordEdge level time (idleEdge level time s)) ∨
        (s.cap.lastLevel ≠ some level ∧ s.cap.buf ≠ [] ∧
          frameEdge level time s = recordEdge level time (accumEdge level time s)) := by
  unfold frameEdge
  by_cases h : s.cap.lastLevel = some level
  · simp [h]
  · cases hb : s.cap.buf <;> simp [h]

/-! ### Agents and steps -/

/-- A scheduled agent takes its step or holds (20_memory.md rule R83). -/
theorem agentStep_cases (a : AgentStep) (s : State) :
    (enabled a s = true ∧ agentStep a s = perform a s) ∨ (enabled a s = false ∧ agentStep a s = s) := by
  unfold agentStep
  cases h : enabled a s <;> simp

/-- A port does one of three things (30_encoding.md rules R110, R118). -/
theorem portStep_cases (p : PortWord) (s : State) :
    (accepts p s = false ∧ portStep p s = .next s) ∨
      (∃ why, accepts p s = true ∧ decode s.params p = .error why ∧ portStep p s = .next (respondError .illegal s)) ∨
        ∃ i, accepts p s = true ∧ decode s.params p = .ok i ∧ portStep p s = exec i s := by
  unfold portStep
  cases ha : accepts p s
  · simp
  · cases hd : decode s.params p <;> simp

/-- What a step can do: the inversion that every invariant starts from (20_memory.md rules R73, R75). -/
theorem step_cases {s t : State} (h : step s = .next t) :
    (∃ a, (nextStimulus s).action = .agent a ∧ t = agentStep a (takeStimulus s)) ∨
      ((nextStimulus s).action = .reset ∧ t = resetEvent (takeStimulus s)) ∨
        (∃ p, (nextStimulus s).action = .port p ∧ accepts p s = false ∧ t = takeStimulus s) ∨
          (∃ p why, (nextStimulus s).action = .port p ∧ accepts p s = true ∧ decode s.params p = .error why ∧
            t = respondError .illegal (takeStimulus s)) ∨
            ∃ p i, (nextStimulus s).action = .port p ∧ accepts p s = true ∧ decode s.params p = .ok i ∧
              exec i (takeStimulus s) = .next t := by
  unfold step at h
  cases ha : (nextStimulus s).action with
  | agent a =>
    simp only [ha, Host.Outcome.next.injEq] at h
    exact .inl ⟨a, rfl, h.symm⟩
  | reset =>
    simp only [ha, Host.Outcome.next.injEq] at h
    exact .inr (.inl ⟨rfl, h.symm⟩)
  | port p =>
    simp only [ha] at h
    have hacc : accepts p (takeStimulus s) = accepts p s := by cases p <;> rfl
    rcases portStep_cases p (takeStimulus s) with ⟨h1, h2⟩ | ⟨why, h1, h2, h3⟩ | ⟨i, h1, h2, h3⟩
    · rw [h2] at h
      exact .inr (.inr (.inl ⟨p, rfl, hacc ▸ h1, (Host.Outcome.next.inj h).symm⟩))
    · rw [h3] at h
      exact .inr (.inr (.inr (.inl ⟨p, why, rfl, hacc ▸ h1, h2, (Host.Outcome.next.inj h).symm⟩)))
    · rw [h3] at h
      exact .inr (.inr (.inr (.inr ⟨p, i, rfl, hacc ▸ h1, h2, h⟩)))

end Sys2Proof.Machine
end

