-- ==== Sys2Proof/Laws/PerInstr.lean ====
section
/-! SUPPORT. A fact about every operation as syntax, one lemma per constructor: the header the encoder writes selects the
operation's own row of the opcode table and no other (30_encoding.md rule R127). -/

namespace Sys2Proof.Laws.HeaderRow

open Sys2Proof

/-- The mnemonics of the command rows that a header selects. -/
def rowsOf (h : BitVec 16) : List String := (opTable.filter fun r => r.selects h).map OpRow.mnemonic

/-- The encoded word's header selects exactly the operation's row; an edge event has its own port and row. -/
def Statement (i : Instr) : Prop :=
  match encode i with
  | .cmd c => rowsOf c.hdr = [i.mnemonic]
  | .event _ => i.mnemonic = "EDGE"

theorem clkStart (refTick : Tick) : Statement (.clkStart refTick) := by
  show rowsOf (header .clkStart 0) = ["CLK.START"]
  decide

theorem clkNow : Statement .clkNow := by
  show rowsOf (header .clkNow 0) = ["CLK.NOW"]
  decide

theorem clkConv (tick : Tick) : Statement (.clkConv tick) := by
  show rowsOf (header .clkConv 0) = ["CLK.CONV"]
  decide

theorem clkStop : Statement .clkStop := by
  show rowsOf (header .clkStop 0) = ["CLK.STOP"]
  decide

theorem capStart : Statement .capStart := by
  show rowsOf (header .capStart 0) = ["CAP.START"]
  decide

theorem capStop : Statement .capStop := by
  show rowsOf (header .capStop 0) = ["CAP.STOP"]
  decide

theorem cfgWr (reg : CfgReg) (value : Word) : Statement (.cfgWr reg value) := by
  show rowsOf (header .cfgWr reg.sel) = ["CFG.WR"]
  cases reg <;> decide

theorem cfgRd (reg : CfgReg) : Statement (.cfgRd reg) := by
  show rowsOf (header .cfgRd reg.sel) = ["CFG.RD"]
  cases reg <;> decide

theorem decSubmit (t0 : Micros) (seq : List Duration) : Statement (.decSubmit t0 seq) := by
  show rowsOf (header .decSubmit 0) = ["DEC.SUBMIT"]
  decide

theorem decShutdown : Statement .decShutdown := by
  show rowsOf (header .decShutdown 0) = ["DEC.SHUTDOWN"]
  decide

theorem encEncode (chars : List CharCode) : Statement (.encEncode chars) := by
  show rowsOf (header .encEncode 0) = ["ENC.ENCODE"]
  decide

theorem resPop : Statement .resPop := by
  show rowsOf (header .resPop 0) = ["RES.POP"]
  decide

theorem edge (level : Level) (tick : Tick) : Statement (.edge level tick) := by
  show "EDGE" = "EDGE"
  rfl

end Sys2Proof.Laws.HeaderRow
end

