-- ==== Sys2Proof/Tests/Slice0.lean ====
section
/-! SUPPORT. Small checks of the model: ill-formed operations are refused, words written out from the spec's encodings
decode to their operations, one step of each operation and each agent against the spec's own test vectors
(95_test_vectors.md), and for every obligation with hypotheses a concrete case that meets them. -/

namespace Sys2Proof.Tests

open Sys2Proof Sys2Proof.Machine Sys2Proof.Claims

/-! ### Ill-formed operations (30_encoding.md rules R115, R117) -/

theorem test_illformed_write_of_status : ¬WellFormed Config.params (.cfgWr .status 0) := by decide
theorem test_illformed_write_of_qcount : ¬WellFormed Config.params (.cfgWr .qcount 0) := by decide
theorem test_illformed_write_of_qdrop : ¬WellFormed Config.params (.cfgWr .qdrop 0) := by decide
theorem test_illformed_wide_minLen : ¬WellFormed Config.params (.cfgWr .minLen 0x100000000) := by decide
theorem test_wellformed_widest_minLen : WellFormed Config.params (.cfgWr .minLen 0xFFFFFFFF) := by decide
theorem test_wellformed_widest_endDur : WellFormed Config.params (.cfgWr .endDur 0xFFFFFFFFFFFFFFFF) := by decide
theorem test_illformed_long_submit : ¬WellFormed Config.params (.decSubmit 0 (List.replicate 201 250)) := by
  rw [WellFormed, Instr.wellFormed, submitLegal, List.length_replicate]
  decide
theorem test_wellformed_longest_submit : WellFormed Config.params (.decSubmit 0 (List.replicate 200 250)) := by
  rw [WellFormed, Instr.wellFormed, submitLegal, List.length_replicate]
  decide
theorem test_illformed_long_string : ¬WellFormed Config.params (.encEncode (List.replicate 50 0x31)) := by decide
theorem test_wellformed_longest_string : WellFormed Config.params (.encEncode (List.replicate 49 0x33)) := by decide

/-! ### Words written out from the encoding (30_encoding.md rules R111 to R117, 95_test_vectors.md) -/

/-- A command word with its four parts. -/
def word (hdr : BitVec 16) (a0 : Word := 0) (a1 : Word := 0) (payload : List Word := []) : PortWord :=
  .cmd { hdr, a0, a1, payload }

/-- The operation a port word decodes to. -/
def decoded (p : PortWord) : Option Instr :=
  match decode Config.params p with
  | .ok i => some i
  | .error _ => none

theorem test_decode_clkStart : decoded (word 0x0100 0xFFFFFFFA) = some (.clkStart 4294967290) := by decide
theorem test_decode_clkStart_wide : decoded (word 0x0100 0x100000000) = none := by decide
theorem test_decode_clkNow : decoded (word 0x0200) = some .clkNow := by decide
theorem test_decode_clkNow_selector : decoded (word 0x0201) = none := by decide
theorem test_decode_clkNow_unused_field : decoded (word 0x0200 0 1) = none := by decide
theorem test_decode_clkConv : decoded (word 0x0300 5) = some (.clkConv 5) := by decide
theorem test_decode_clkStop : decoded (word 0x0400) = some .clkStop := by decide
theorem test_decode_capStart : decoded (word 0x1000) = some .capStart := by decide
theorem test_decode_capStart_payload : decoded (word 0x1000 0 0 [0]) = none := by decide
theorem test_decode_capStop : decoded (word 0x1100) = some .capStop := by decide
theorem test_decode_cfgWr_startDur : decoded (word 0x2000 200) = some (.cfgWr .startDur 200) := by decide
theorem test_decode_cfgWr_minLen : decoded (word 0x2002 8) = some (.cfgWr .minLen 8) := by decide
theorem test_decode_cfgWr_minLen_wide : decoded (word 0x2002 0x100000000) = none := by decide
theorem test_decode_cfgWr_status : decoded (word 0x2010) = none := by decide
theorem test_decode_cfgRd_status : decoded (word 0x2110) = some (.cfgRd .status) := by decide
theorem test_decode_cfgRd_qdrop : decoded (word 0x2112) = some (.cfgRd .qdrop) := by decide
theorem test_decode_cfgRd_reserved : decoded (word 0x2103) = none := by decide
theorem test_decode_decSubmit : decoded (word 0x3000 7 0 [250, 2500]) = some (.decSubmit 7 [250, 2500]) := by decide
theorem test_decode_decShutdown : decoded (word 0x3100) = some .decShutdown := by decide
theorem test_decode_encEncode : decoded (word 0x4000 0 0 [0x32, 0x33]) = some (.encEncode [0x32, 0x33]) := by decide
theorem test_decode_encEncode_wide_char : decoded (word 0x4000 0 0 [0x131]) = none := by decide
theorem test_decode_resPop : decoded (word 0x5000) = some .resPop := by decide
theorem test_decode_edge_rising : decoded (.event 0x1000003E8) = some (.edge .high 1000) := by decide
theorem test_decode_edge_falling : decoded (.event 0x0000004E2) = some (.edge .low 1250) := by decide

/-- The words of the test vectors X1 and X2: reserved opcodes. -/
theorem test_decode_reserved :
    [0x0000, 0x0500, 0x1200, 0x2200, 0x3200, 0x4100, 0x5100, 0xFF00].map (fun h => decoded (word h)) =
      List.replicate 8 none := by decide

theorem test_table_word_cfgRd : decodeTableWord 16 0x2101 = some (.cfgRd .endDur) := by decide
theorem test_table_word_edge : decodeTableWord 40 0x1000003E8 = some (.edge .high 1000) := by decide

/-! ### One step of each operation, with the responses and states of 95_test_vectors.md, part 2 -/

/-- The machine of the test vectors: reset, unbounded channels, the spec's parameter values. -/
def base : State := 
  { State.reset with params := { Config.params with queueDepth := .unbounded, resultDepth := .unbounded } }

/-- The state an operation leaves. -/
def after (i : Instr) (s : State) : State :=
  match exec i s with
  | .next t => t
  | .fault _ => s
  | .refused _ => s

/-- The state with another reading of the tick input. -/
def atTick (t : Tick) (s : State) : State := { s with env := { s.env with tickNow := t } }

/-- What the command port shows, as numbers. -/
def shown (s : State) : Option (Nat × Nat × List Nat) :=
  s.chan.response.map fun r => ((statusCode r.status).toNat, r.value.toNat, r.payload.map BitVec.toNat)

/-- The clock's time state. -/
def clock (s : State) : Bool × Nat × Nat := (s.clk.started, s.clk.lastTick.toNat, s.clk.total.toNat)

/-- A machine with its clock started at a tick. -/
def started (t : Tick) : State := after (.clkStart t) base

/-- A machine that captures, with its clock started at tick 0. -/
def capturing : State := after .capStart (started 0)

/-- An edge handled in the tick it happened. -/
def edgeAt (l : Level) (t : Tick) (s : State) : State := after (.edge l t) (atTick t s)

/-- The pulses of the frame for "1". -/
def frameA : List Duration := [250, 2500, 250, 1250, 250, 250, 250, 10000]

theorem test_clkStart_K3 : clock (started 4294967290) = (true, 4294967290, 0) := by decide
theorem test_clkStart_K4 : shown (after (.clkStart 0) (started 9)) = some (3, 0, []) := by decide
theorem test_clkNow_K1 : shown (after .clkNow base) = some (2, 0, []) := by decide
theorem test_clkNow_K5 :
    let s := after .clkNow (atTick 5 (started 4294967290))
    shown s = some (0, 11, []) ∧ clock s = (true, 5, 11) := by decide
theorem test_clkConv_K8 :
    shown (after (.clkConv 0) (after .clkNow (atTick 5 (started 4294967290)))) = some (0, 6, []) := by decide
theorem test_clkConv_K10 :
    shown (after (.clkConv 6) (after .clkNow (atTick 5 (started 4294967290)))) =
      some (0, 18446744069414584332, []) := by decide
theorem test_clkStop_K13 :
    let s := after .clkStop (started 7)
    s.clk.refreshStop = true ∧ s.clk.refreshEv = true ∧ s.clk.refreshRunning = true := by decide
theorem test_clkStop_K16 : (after .clkStop base).clk = base.clk := by decide
theorem test_refresh_K12 : clock (agentStep .clkrTimeout (atTick 100 (started 4294967290))) = (true, 100, 106) := by
  decide
theorem test_refresh_K14 :
    let s := agentStep .clkrWake (after .clkStop (started 7))
    s.clk.refreshEv = false ∧ s.clk.refreshRunning = false := by decide
theorem test_capStart_E16 : shown (after .capStart base) = some (2, 0, []) := by decide
theorem test_capStart_enables : capturing.cap.enabled = true ∧ shown capturing = some (0, 0, []) := by decide
theorem test_capStop_E15 :
    (after .capStop (edgeAt .low 1250 (edgeAt .high 1000 capturing))).cap = ⟨false, none, 1250, none, []⟩ := by decide
theorem test_edge_E3 :
    (edgeAt .low 1200 (edgeAt .high 1000 capturing)).cap = ⟨true, some .low, 1200, some 1000, [200]⟩ := by decide
theorem test_edge_E12 :
    let s := after (.edge .high 1000) (atTick 1100 (after .capStart (started 100)))
    clock s = (true, 1100, 1000) ∧ s.cap.start = some 900 := by decide
theorem test_cfgWr_G7 : (after (.cfgWr .endDur 0xFFFFFFFFFFFFFFFF) base).cfg = ⟨200, 0xFFFFFFFFFFFFFFFF, 64⟩ := by
  decide
theorem test_cfgRd_G4 :
    shown (after (.cfgRd .status) (edgeAt .low 1200 (edgeAt .high 1000 capturing))) = some (0, 0x1F, []) := by decide
theorem test_decSubmit_Q1 :
    (after (.decSubmit 0 frameA) base).dec = ⟨[⟨frameA, 0⟩], true, false, .waiting, 0⟩ := by decide
theorem test_decSubmit_stopped :
    let s := after (.decSubmit 0 frameA) { base with dec := { base.dec with stop := true, worker := .exited } }
    shown s = some (4, 0, []) ∧ s.dec.qDrop = 1 := by decide
theorem test_decShutdown_holds :
    let s := after .decShutdown base
    s.chan = ⟨[], true, none⟩ ∧ s.dec = ⟨[], true, true, .waiting, 0⟩ := by decide
theorem test_decShutdown_joins :
    shown (agentStep .joinDone (agentStep .workerWake (after .decShutdown base))) = some (0, 0, []) := by decide
theorem test_workerDecode_Q4 :
    (agentStep .workerDecode (agentStep .workerWake (after (.decSubmit 0 frameA) base))).chan.res = [.message [1]] := by
  decide
theorem test_encEncode_S1 :
    shown (after (.encEncode [0x31]) base) = some (0, 8, [250, 2500, 250, 1250, 250, 250, 250, 10000]) := by decide
theorem test_encEncode_N7 : shown (after (.encEncode [0x31, 0x61]) base) = some (5, 1, []) := by decide
theorem test_resPop_record :
    shown (after .resPop { base with chan := { base.chan with res := [.message [2, 3], .error .invalidTimings] } }) =
      some (0, 0, [2, 3]) := by decide
theorem test_resPop_empty : shown (after .resPop base) = some (6, 0, []) := by decide

/-- The source's frames S2, S4, S7 and the vector D19. -/
theorem test_decode_function :
    decodeFrame Config.params [250, 2500, 250, 250, 250, 250, 250, 1250, 250, 1250, 250, 10000] = .message [2, 3] ∧
      decodeFrame Config.params [250, 600, 250, 250, 250, 10000] = .error .invalidTimings ∧
        decodeFrame Config.params [250, 250, 2500, 250, 250, 250, 250, 10000] = .error .startMarkerNotFound ∧
          decodeFrame Config.params [250, 2500, 250, 250, 250, 250, 250, 250, 10000, 250, 250, 10000] =
            .error .invalidSignals := by decide

/-- A table word placed for the next step is decoded and run by that step. -/
theorem test_step_runs_a_placed_word :
    (match step (base.withFetchWord 16 0x2101) with
      | .next t => shown t
      | .fault _ => none
      | .refused _ => none) = some (0, 5000, []) := by decide

/-- A line of assembler text becomes its port word (30_encoding.md rule R123). -/
theorem test_assemble_edge : assembleLine "EDGE 1, 1000 ; rising".toList = some (.words [.event 0x1000003E8]) := by decide

/-! ### A case that meets the hypotheses of each obligation -/

/-- A machine whose next stimulus is given. -/
def awaiting (a : Action) (s : State) : State := { s with env := { s.env with inputs := [⟨5, a⟩] } }

/-- The state one step leaves. -/
def stepped (s : State) : State :=
  match step s with
  | .next t => t
  | .fault _ => s
  | .refused _ => s

/-- A machine with a message in progress: a first duration of 250, its last edge at 1250, and MIN_LEN at 2. -/
def inMessage : State :=
  { edgeAt .low 1250 (edgeAt .high 1000 capturing) with cfg := { startDur := 200, endDur := 5000, minLen := 2 } }

/-- A machine with `n` durations captured and the last edge at 1250, falling for odd `n`. -/
def withBuffer (n : Nat) : State :=
  { inMessage with
    cap := { inMessage.cap with buf := List.replicate n 250, lastLevel := some (lastLevelOf n) } }

theorem withBuffer_length (n : Nat) : (withBuffer n).cap.buf.length = n := List.length_replicate

theorem withBuffer_ne_nil {n : Nat} (h : 0 < n) : (withBuffer n).cap.buf ≠ [] := fun hb => by
  have := withBuffer_length n
  rw [hb] at this
  exact absurd this (Nat.ne_of_lt h)

/-- A machine that waits for its worker after DEC.SHUTDOWN, with one frame queued and a full result channel. -/
def closing (w : WorkerState) : State :=
  { base with
    params := { base.params with resultDepth := .bounded 0 }
    dec := ⟨[⟨frameA, 0⟩], true, true, w, 0⟩
    chan := ⟨[.message [1]], true, none⟩ }

/-- The spec's literals stand in the relations of 93_implementation_defined.md. -/
theorem literals_ok : Literals.Ok Config.literals :=
  ⟨by decide, by decide, by decide, by decide, by decide, by decide, by decide, by decide, by decide, by decide,
    by decide, by decide⟩

theorem awaiting_inv : (awaiting (.port (word 0x0100 7)) base).Inv :=
  ⟨literals_ok, by decide, by decide, by decide, by decide, by decide, by decide, by decide, by decide, by decide,
    trivial, by decide, trivial, by decide, by decide, by decide, by decide, by decide⟩

theorem inMessage_inv : (atTick 6251 inMessage).Inv :=
  ⟨literals_ok, by decide, by decide, by decide, by decide, by decide, by decide, by decide, by decide, by decide,
    trivial, by decide, trivial, by decide, by decide, by decide, by decide, by decide⟩

theorem witness_ResetEventRestoresEveryField :
    (nextStimulus (awaiting .reset inMessage)).action = .reset ∧
      step (awaiting .reset inMessage) = .next (stepped (awaiting .reset inMessage)) := ⟨rfl, rfl⟩

theorem witness_StepRunsTheDecodedOperation :
    let s := awaiting (.port (word 0x0200)) base
    let s' := awaiting (.port (.event 0x1000003E8)) (closing .waiting)
    (nextStimulus s).action = .port (word 0x0200) ∧ s.chan.joinPending = false ∧
      decode s.params (word 0x0200) = .ok .clkNow ∧ (nextStimulus s').action = .port (.event 0x1000003E8) ∧
        s'.chan.joinPending = true ∧ decode s'.params (.event 0x1000003E8) = .ok (.edge .high 1000) :=
  ⟨rfl, rfl, rfl, rfl, rfl, rfl⟩

/-- A word that no opcode has, a command that a pending join keeps out, and an agent's step. -/
theorem witness_StepRunsTheDecodedOperation_other_stimuli :
    (nextStimulus (awaiting (.port (word 0x0500)) base)).action = .port (word 0x0500) ∧
      (nextStimulus (awaiting (.port (word 0x5000)) (closing .waiting))).action = .port (word 0x5000) ∧
        (nextStimulus (awaiting (.agent .workerWake) (closing .waiting))).action = .agent .workerWake ∧
          (awaiting .reset base).env.inputs = ⟨5, .reset⟩ :: [] ∧ State.reset.env.inputs = [] :=
  ⟨rfl, rfl, rfl, rfl, rfl⟩

theorem witness_NoCommandIsAcceptedWhileAJoinIsPending : (closing .waiting).chan.joinPending = true := rfl

/-- Both ends of each reserved range. -/
theorem witness_ReservedOpcodesAnswerIllegal :
    base.chan.joinPending = false ∧
      ∀ h ∈ [0x0000, 0x0500, 0x0F00, 0x1200, 0x1F00, 0x2200, 0x2F00, 0x3200, 0x3F00, 0x4100, 0x4F00, 0x5100, 0xFFFF],
        let op := opField { hdr := BitVec.ofNat 16 h, a0 := 0, a1 := 0, payload := [] }
        op = 0 ∨ (0x05 ≤ op ∧ op ≤ 0x0F) ∨ (0x12 ≤ op ∧ op ≤ 0x1F) ∨ (0x22 ≤ op ∧ op ≤ 0x2F) ∨
          (0x32 ≤ op ∧ op ≤ 0x3F) ∨ (0x41 ≤ op ∧ op ≤ 0x4F) ∨ 0x51 ≤ op := by decide

theorem witness_DecodeOfEncodeIsTheOperation :
    WellFormed Config.params (.cfgWr .minLen 0xFFFFFFFF) ∧ WellFormed Config.params (.decSubmit 0 []) ∧
      WellFormed Config.params (.encEncode (List.replicate 49 0xFF)) := by decide

theorem witness_EveryDecodableWordIsAnEncoding :
    decode Config.params (word 0x2002 0xFFFFFFFF) = .ok (.cfgWr .minLen 0xFFFFFFFF) := by rfl

theorem witness_PseudoInstructionsExpandToTheirWrites : (0 : Nat) < 2 ^ 64 ∧ 2 ^ 64 - 1 < 2 ^ 64 := by decide

/-- A drain of no record, and one of two records at its first and its last of them. -/
theorem witness_PseudoInstructionsExpandToTheirWrites_drain :
    let b : Bench := ⟨7, base⟩
    let b' : Bench := ⟨7, { base with chan := ⟨[.message [1], .error .invalidTimings], false, none⟩ }⟩
    b.machine.chan.joinPending = false ∧ b.machine.chan.res.length = 0 ∧ b'.machine.chan.joinPending = false ∧
      0 < b'.machine.chan.res.length ∧ 1 < b'.machine.chan.res.length ∧
        (benchLine .drain b').map (fun e => (e.machine.chan.res.length, shown e.machine)) = [(0, some (6, 0, []))] := by
  decide

/-- A command of each opcode, for the statements about the command port. -/
theorem witness_command_port :
    base.chan.joinPending = false ∧
      [0x0100, 0x0200, 0x0300, 0x0400, 0x1000, 0x1100, 0x2000, 0x2100, 0x3000, 0x3100, 0x4000, 0x5000].map
          (fun h => opField { hdr := BitVec.ofNat 16 h, a0 := 0, a1 := 0, payload := [] }) =
        [0x01, 0x02, 0x03, 0x04, 0x10, 0x11, 0x20, 0x21, 0x30, 0x31, 0x40, 0x50] := by decide

/-- A right clock, started at real time 4294967290. -/
theorem clockRight_started : ClockRight 4294967290 4294967290 (started 4294967290) :=
  ⟨by decide, by decide, by decide, by decide, by decide⟩

/-- No time between the samples, and the longest time the premise allows. -/
theorem witness_ClkNowAnswersTheTimeSinceStart :
    (base.clk.started = false ∧ base.params.maxTick = .pow32) ∧
      ∀ after ∈ [4294967290, 4294967290 + 4294967295],
        ClockRight 4294967290 4294967290 (atTick (tickAt after) (started 4294967290)) ∧
          singleWrap 4294967290 after ∧
            (atTick (tickAt after) (started 4294967290)).env.tickNow = tickAt after := by
  refine ⟨by decide, fun after h => ⟨⟨by rfl, by decide, by rfl, by rfl, by rfl⟩, ?_, rfl⟩⟩
  simp only [List.mem_cons, List.not_mem_nil, or_false] at h
  rcases h with rfl | rfl <;> constructor <;> decide

/-- The refresh task's sample, no time and the longest allowed time after the one before it. -/
theorem witness_EveryStepKeepsTheClockRight :
    ∀ after ∈ [4294967290, 4294967290 + 4294967295],
      let s : State :=
        { started 4294967290 with env := ⟨0, [⟨tickAt after, .agent .clkrTimeout⟩], 0⟩ }
      ClockRight 4294967290 4294967290 s ∧ singleWrap 4294967290 after ∧
        (nextStimulus s).tickNow = tickAt after ∧ (nextStimulus s).action ≠ .reset ∧ step s = .next (stepped s) := by
  refine fun after h => ⟨⟨by rfl, by decide, by rfl, by rfl, by rfl⟩, ?_, rfl, by simp [nextStimulus], rfl⟩
  simp only [List.mem_cons, List.not_mem_nil, or_false] at h
  rcases h with rfl | rfl <;> constructor <;> decide

/-- A right clock, one sample and 2^32 − 1 microseconds after its start at real time 0. -/
theorem clockRight_late : ClockRight 0 4294967295 (after .clkNow (atTick 4294967295 (started 0))) :=
  ⟨by decide, by decide, by decide, by decide, by decide⟩

/-- Both ends of the window: a tick of now, and one 2^32 − 1 ago. -/
theorem witness_ClkConvIsTrueInsideTheWindow :
    ∀ recorded ∈ [0, 4294967295], ClockRight 0 4294967295 (after .clkNow (atTick 4294967295 (started 0))) ∧
      0 ≤ recorded ∧ recorded ≤ 4294967295 ∧ 4294967295 < recorded + 2 ^ 32 :=
  fun recorded h => ⟨clockRight_late, by revert recorded; decide⟩

theorem witness_LostWrapsAreWholePeriods :
    (started 7).params.maxTick = .pow32 ∧ 7 ≤ 8589934599 ∧ (started 7).clk.lastTick = tickAt 7 := by decide

theorem witness_TotalNeverDecreases :
    let s := awaiting (.agent .clkrTimeout)
      { started 7 with clk := { (started 7).clk with total := 18446744069414584320 } }
    step s = .next (stepped s) ∧ (nextStimulus s).action ≠ .reset ∧ s.clk.started = true ∧
      s.clk.total.toNat + 2 ^ 32 ≤ 2 ^ 64 := ⟨rfl, by decide, by decide, by decide⟩

theorem witness_TimelyRefreshKeepsTheSingleWrapPremise :
    Literals.Ok Config.literals ∧ refreshInTime Config.literals.refreshPeriod 7 7 ∧ refreshInTime Config.literals.refreshPeriod 7 60000007 :=
  ⟨literals_ok, ⟨by decide, by decide⟩, by decide, by decide⟩

theorem witness_EdgeIsDroppedWhileDisabled : (started 0).cap.enabled = false := by decide

theorem witness_DuplicateEdgeOnlySamplesTheClock :
    inMessage.cap.enabled = true ∧ inMessage.cap.lastLevel = some .low := by decide

/-- A first edge of each level, a falling edge after a rising one, and a rising edge with a start pending, which the
framer does not reach. -/
theorem witness_IdleEdgeRecordsCommitsOrResetsTheStart :
    let pending := edgeAt .high 1000 capturing
    let odd : State := { pending with cap := { pending.cap with lastLevel := some .low } }
    (capturing.cap.enabled = true ∧ capturing.cap.lastLevel ≠ some .high ∧ capturing.cap.lastLevel ≠ some .low ∧
        capturing.cap.buf = [] ∧ capturing.cap.start = none) ∧
      (pending.cap.enabled = true ∧ pending.cap.lastLevel ≠ some .low ∧ pending.cap.buf = [] ∧
          pending.cap.start = some 1000 ∧ edgeTime 1199 (atTick 1199 pending) - 1000 = 199 ∧
            edgeTime 1200 (atTick 1200 pending) - 1000 = 200 ∧ edgeTime 5999 (atTick 5999 pending) - 1000 = 4999 ∧
              edgeTime 6000 (atTick 6000 pending) - 1000 = 5000) ∧
        (odd.cap.enabled = true ∧ odd.cap.lastLevel ≠ some .high ∧ odd.cap.buf = [] ∧ odd.cap.start.isSome = true) := by
  decide

/-- A gap of exactly END_DUR, and the last duration below the cap. -/
theorem witness_EdgeInsideAMessageAppendsItsDuration :
    (inMessage.cap.enabled = true ∧ inMessage.cap.lastLevel ≠ some .high ∧ inMessage.cap.buf ≠ [] ∧
        (edgeTime 6250 (atTick 6250 inMessage) - inMessage.cap.lastTime).toNat = inMessage.cfg.endDur.toNat ∧
          inMessage.cap.buf.length + 1 < inMessage.params.maxLen) ∧
      (withBuffer 198).cap.buf.length + 1 < (withBuffer 198).params.maxLen ∧ (withBuffer 198).cap.buf ≠ [] ∧
        (withBuffer 198).cap.lastLevel ≠ some .low :=
  ⟨by decide, by rw [withBuffer_length]; decide, withBuffer_ne_nil (by decide), by simp [withBuffer, lastLevelOf]⟩

/-- A gap one above END_DUR, and a short gap that reaches the cap. -/
theorem witness_FinishingEdgeHandsTheMessageOver :
    (inMessage.cap.enabled = true ∧ inMessage.cap.lastLevel ≠ some .high ∧ inMessage.cap.buf ≠ [] ∧
        inMessage.cap.start = some 1000 ∧
          inMessage.cfg.endDur.toNat < (edgeTime 6251 (atTick 6251 inMessage) - inMessage.cap.lastTime).toNat) ∧
      (withBuffer 199).cap.enabled = true ∧ (withBuffer 199).cap.lastLevel ≠ some .high ∧
        (withBuffer 199).cap.buf ≠ [] ∧ (withBuffer 199).cap.start = some 1000 ∧
          (withBuffer 199).params.maxLen ≤ (withBuffer 199).cap.buf.length + 1 :=
  ⟨by decide, by rfl, by simp [withBuffer, lastLevelOf], withBuffer_ne_nil (by decide), by rfl,
    by rw [withBuffer_length]; decide⟩

/-- An edge that hands a message over, at a minimum length of 2. -/
theorem witness_CaptureHandsOverOnlyLegalSequences :
    let s := atTick 6251 inMessage
    s.Inv ∧ exec (.edge .high 6251) s = .next (after (.edge .high 6251) s) ∧
      (after (.edge .high 6251) s).dec.queue = [⟨[250, 5001], 1000⟩] := ⟨inMessage_inv, rfl, by decide⟩

/-- A machine that captures, with MIN_LEN at 3. -/
def framing : State := { capturing with cfg := { startDur := 200, endDur := 5000, minLen := 3 } }

/-- The shortest first duration, an inner one of exactly END_DUR and a last one just above it. -/
theorem witness_FramerCapturesExactlyTheSequenceSent :
    framing.params.maxTick = .pow32 ∧ framing.cap.enabled = true ∧ framing.cap.buf = [] ∧ framing.cap.start = none ∧
      framing.cap.lastLevel ≠ some .high ∧ framing.cfg.startDur ≤ 200 ∧ (200 : Duration) < framing.cfg.endDur ∧
        (∀ d ∈ (200 : Duration) :: [5000] ++ [5001], d.toNat < 2 ^ 32) ∧
          (∀ d ∈ [(5000 : Duration)], d ≤ framing.cfg.endDur) ∧ [(5000 : Duration)].length + 2 ≤ framing.params.maxLen ∧
            framing.cfg.endDur < 5001 ∧ framing.cfg.minLen.toNat ≤ [(5000 : Duration)].length + 2 :=
  ⟨rfl, rfl, rfl, rfl, by decide, by decide, by decide, by simp, by simp [framing], by decide, by decide, by decide⟩

/-- The inner durations of a message that the cap finishes: 198 between the first and the last. -/
theorem witness_FramerCapturesExactlyTheSequenceSent_cap :
    (∀ d ∈ List.replicate 198 (250 : Duration), d ≤ framing.cfg.endDur ∧ d.toNat < 2 ^ 32) ∧
      (List.replicate 198 (250 : Duration)).length + 2 = framing.params.maxLen := by
  refine ⟨fun d h => ?_, by rw [List.length_replicate]; rfl⟩
  rw [List.eq_of_mem_replicate h]
  decide

theorem witness_CfgWrWritesOneThreshold :
    opField ⟨0x2002, 0xFFFFFFFF, 0, []⟩ = 0x20 ∧ (0xFFFFFFFF : Word).toNat < 2 ^ 32 := by decide

theorem witness_IllFormedOperationsAnswerIllegal :
    ¬WellFormed Config.params (.cfgWr .status 0) ∧ ¬WellFormed Config.params (.cfgWr .minLen 0x100000000) ∧
      ¬WellFormed Config.params (.encEncode (List.replicate 50 0x31)) := by decide

theorem witness_DecSubmitEnqueuesAFrame : (List.replicate 200 (250 : Duration)).length ≤ base.params.maxLen := by
  rw [List.length_replicate]
  decide

theorem witness_WorkerStepsFollowTheirRules :
    (closing .draining).dec.queue = ⟨frameA, 0⟩ :: [] ∧ (closing .draining).dec.worker = .draining := by decide

/-- The whole queue of one frame, into a result channel of one entry. -/
theorem witness_AnyPrefixMayBeDecodedAtShutdown :
    let s : State := { closing .draining with chan := ⟨[], true, none⟩ }
    s.dec.worker = .draining ∧ s.dec.stop = true ∧ 1 ≤ s.dec.queue.length ∧
      withinDepth s.params.resultDepth (s.chan.res.length + 1) :=
  ⟨rfl, rfl, Nat.le_refl 1, Nat.le_refl 1⟩

/-- With the worker waiting, draining and exited, in front of a full result channel. -/
theorem witness_ShutdownCanAlwaysBeAnswered : ∀ w, (closing w).Inv ∧ (closing w).chan.joinPending = true := by
  intro w
  refine ⟨⟨literals_ok, ?_, ?_, ?_, ?_, ?_, ?_, ?_, ?_, ?_, trivial, ?_, Nat.le_refl 1, ?_, ?_, ?_, ?_, ?_⟩, rfl⟩ <;>
    cases w <;> decide

theorem witness_SignalsCollapseIntoOneWakeup :
    base.dec.qEv = false ∧ base.clk.refreshEv = false ∧ enabled .workerWake (closing .waiting) = true ∧
      enabled .clkrWake (after .clkStop (started 7)) = true := by decide

theorem witness_ResPopTakesTheOldestRecord :
    base.chan.res = [] ∧ (closing .waiting).chan.res = .message [1] :: [] ∧
      ({ base with chan := ⟨[.error .endMarkerNotFound], false, none⟩ } : State).chan.res =
        .error .endMarkerNotFound :: [] := by decide

theorem witness_EncodedFrameHasTheShapeOfR282 :
    Literals.Ok base.params.toLiterals ∧ ([0, 3] : List Digit)[1]? = some 3 ∧ 2 * 5 < 4 + 4 * 2 :=
  ⟨literals_ok, by decide, by decide⟩

theorem witness_DecodeOfEncodedDigitsIsTheMessage :
    Literals.Ok base.params.toLiterals ∧ 1 ≤ ([0] : List Digit).length := ⟨literals_ok, by decide⟩

theorem witness_ClassificationIsTheFourRanges : Literals.Ok base.params.toLiterals := literals_ok

theorem witness_EncEncodeAnswersThePulseDurations :
    (List.replicate 49 (0x33 : CharCode)).length ≤ base.params.encMaxDigits ∧ encodeChars Config.params [0x31] = .ok frameA ∧
      encodeChars Config.params [0x31, 0x61] = .error 1 := ⟨by decide, by rfl, by rfl⟩

theorem witness_EveryStepKeepsTheInvariant :
    let s := awaiting (.port (word 0x0100 7)) base
    s.Inv ∧ step s = .next (stepped s) := ⟨awaiting_inv, rfl⟩

theorem witness_ParametersNeverChange :
    Reaches (awaiting (.port (word 0x0100 7)) base) (stepped (awaiting (.port (word 0x0100 7)) base)) :=
  .tail (.refl _) rfl

/-- Everything stopped, and an edge event that still arrives. -/
theorem witness_PermanentStopsLastUntilReset :
    let s : State := awaiting (.port (.event 0))
      { base with clk := ⟨true, 0, 0, false, true, false⟩, dec := ⟨[⟨frameA, 0⟩], false, true, .exited, 0⟩ }
    step s = .next (stepped s) ∧ (nextStimulus s).action ≠ .reset ∧ s.dec.stop = true ∧ s.dec.worker = .exited ∧
      s.clk.started = true ∧ s.clk.refreshRunning = false ∧ s.clk.refreshStop = true :=
  ⟨rfl, by decide, rfl, rfl, rfl, rfl, rfl⟩

theorem witness_OnlyShutdownStopsTheDecoder :
    let s := awaiting (.port (word 0x3100)) base
    step s = .next (stepped s) ∧ s.dec.stop = false ∧ (stepped s).dec.stop = true := ⟨rfl, rfl, rfl⟩

/-- A step other than reset that changes what `f` reads. -/
def Changes {α : Type} (f : State → α) (a : Action) (s : State) : Prop :=
  step (awaiting a s) = .next (stepped (awaiting a s)) ∧ (nextStimulus (awaiting a s)).action ≠ .reset ∧
    f (stepped (awaiting a s)) ≠ f (awaiting a s)

theorem witness_GroupsChangeOnlyByTheirOwnOperations_clock :
    Changes (·.clk.started) (.port (word 0x0100)) base ∧
      Changes (·.clk.lastTick) (.port (word 0x0200)) (started 0) ∧
        Changes (·.clk.total) (.agent .clkrTimeout) (started 0) ∧
          Changes (·.clk.refreshRunning) (.agent .clkrWake) (after .clkStop (started 0)) ∧
            Changes (·.clk.refreshStop) (.port (word 0x0400)) (started 0) ∧
              Changes (·.clk.refreshEv) (.agent .clkrWake) (after .clkStop (started 0)) := by
  refine ⟨?_, ?_, ?_, ?_, ?_, ?_⟩ <;> exact ⟨rfl, by decide, by decide⟩

theorem witness_GroupsChangeOnlyByTheirOwnOperations_capture :
    Changes (·.cap.enabled) (.port (word 0x1000)) (started 0) ∧
      Changes (·.cap.lastLevel) (.port (.event 0)) capturing ∧
        Changes (·.cap.lastTime) (.port (.event 0x100000005)) capturing ∧
          Changes (·.cap.start) (.port (.event 0x100000005)) capturing ∧
            Changes (·.cap.buf) (.port (word 0x1100)) inMessage ∧
              Changes (·.cfg) (.port (word 0x2000 1)) base := by
  refine ⟨?_, ?_, ?_, ?_, ?_, ?_⟩ <;> exact ⟨rfl, by decide, by decide⟩

theorem witness_GroupsChangeOnlyByTheirOwnOperations_decoder :
    Changes (·.dec.queue) (.port (word 0x3000)) base ∧ Changes (·.dec.qEv) (.agent .workerWake) (closing .waiting) ∧
      Changes (·.dec.stop) (.port (word 0x3100)) base ∧ Changes (·.dec.worker) (.agent .workerExit) (closing .draining) ∧
        Changes (·.dec.qDrop) (.port (word 0x3000)) { closing .exited with chan := base.chan } := by
  refine ⟨?_, ?_, ?_, ?_, ?_⟩ <;> exact ⟨rfl, by decide, by decide⟩

theorem witness_GroupsChangeOnlyByTheirOwnOperations_channels :
    Changes (·.chan.res) (.port (word 0x5000)) { base with chan := ⟨[.message [1]], false, none⟩ } ∧
      Changes (·.chan.joinPending) (.agent .joinDone) (closing .exited) ∧
        Changes (·.chan.response) (.port (word 0x0500)) base := by
  refine ⟨?_, ?_, ?_⟩ <;> exact ⟨rfl, by decide, by decide⟩

/-- Two machines whose queued frames carry different start times, and a step of the worker. -/
theorem witness_StartTimesInfluenceNothing :
    let s (t0 : Micros) : State :=
      awaiting (.agent .workerDecode) { base with dec := ⟨[⟨frameA, t0⟩], false, false, .draining, 0⟩ }
    forgetStartTimes (s 3) = forgetStartTimes (s 9) ∧ s 3 ≠ s 9 ∧ step (s 3) = .next (stepped (s 3)) ∧
      step (s 9) = .next (stepped (s 9)) := ⟨rfl, by decide, rfl, rfl⟩

end Sys2Proof.Tests
end

section
/-! LAWS. What each operation and each agent can do, said once: a case lemma for every meaning that branches, and what
the framing step leaves alone. -/

namespace Sys2Proof.Machine

open Sys2Proof

/-! ### The framing step -/

/-- Step 3 changes the framer's group alone (42_edge_capture.md rules R186 to R188). -/
theorem idleEdge_frame (level : Level) (time : Micros) (s : State) :
    (idleEdge level time s).clk = s.clk ∧ (idleEdge level time s).cfg = s.cfg ∧ (idleEdge level time s).dec = s.dec ∧
      (idleEdge level time s).chan = s.chan ∧ (idleEdge level time s).env = s.env ∧
        (idleEdge level time s).params = s.params := by
  rcases idleEdge_cases level time s with ⟨_, _, h⟩ | ⟨_, _, _, _, h⟩ | h <;> rw [h] <;> simp

/-- Step 4 changes the framer's group and, by its hand-off, the decoder's queue (42_edge_capture.md rules R189 to
R192). -/
theorem accumEdge_frame (level : Level) (time : Micros) (s : State) :
    (accumEdge level time s).clk = s.clk ∧ (accumEdge level time s).cfg = s.cfg ∧
      (accumEdge level time s).chan = s.chan ∧ (accumEdge level time s).env = s.env ∧
        (accumEdge level time s).params = s.params ∧ (accumEdge level time s).dec.worker = s.dec.worker ∧
          (accumEdge level time s).dec.stop = s.dec.stop := by
  rcases accumEdge_cases level time s with ⟨_, h⟩ | ⟨_, h⟩ <;> rw [h]
  · obtain ⟨hclk, _, hcfg, hchan, henv, hparams, hworker, hstop⟩ :=
      handOff_frame (s.cap.buf ++ [time - s.cap.lastTime]) time s
    simp [hclk, hcfg, hchan, henv, hparams, hworker, hstop]
  · simp

/-- An edge changes the framer's group and, by the hand-off, the decoder's queue (42_edge_capture.md rules R185 to
R193). -/
theorem frameEdge_frame (level : Level) (time : Micros) (s : State) :
    (frameEdge level time s).clk = s.clk ∧ (frameEdge level time s).cfg = s.cfg ∧
      (frameEdge level time s).chan = s.chan ∧ (frameEdge level time s).env = s.env ∧
        (frameEdge level time s).params = s.params ∧ (frameEdge level time s).dec.worker = s.dec.worker ∧
          (frameEdge level time s).dec.stop = s.dec.stop := by
  rcases frameEdge_cases level time s with ⟨_, h⟩ | ⟨_, _, h⟩ | ⟨_, _, h⟩ <;> rw [h]
  · simp
  · obtain ⟨hclk, hcfg, hdec, hchan, henv, hparams⟩ := idleEdge_frame level time s
    simp [hclk, hcfg, hdec, hchan, henv, hparams]
  · obtain ⟨hclk, hcfg, hchan, henv, hparams, hworker, hstop⟩ := accumEdge_frame level time s
    simp [hclk, hcfg, hchan, henv, hparams, hworker, hstop]

/-! ### The operations -/

/-- CLK.START (41_clock.md rule R151). -/
theorem execClkStart_cases (refTick : Tick) (s : State) :
    (s.clk.started = true ∧ execClkStart refTick s = .next (respondError .clockAlreadyStarted s)) ∨
      (s.clk.started = false ∧ execClkStart refTick s = .next (respondOk { s with clk := startedClock refTick })) := by
  unfold execClkStart
  cases h : s.clk.started <;> simp

/-- CLK.NOW (41_clock.md rule R152). -/
theorem execClkNow_cases (s : State) :
    (s.clk.started = true ∧ execClkNow s = .next (respond .ok (sampleClock s).clk.total [] (sampleClock s))) ∨
      (s.clk.started = false ∧ execClkNow s = .next (respondError .clockNotStarted s)) := by
  unfold execClkNow
  cases h : s.clk.started <;> simp

/-- CLK.CONV (41_clock.md rule R154). -/
theorem execClkConv_cases (tick : Tick) (s : State) :
    (s.clk.started = true ∧ execClkConv tick s = .next (respond .ok (clkConv tick s) [] s)) ∨
      (s.clk.started = false ∧ execClkConv tick s = .next (respondError .clockNotStarted s)) := by
  unfold execClkConv
  cases h : s.clk.started <;> simp

/-- CLK.STOP (41_clock.md rule R157). -/
theorem execClkStop_cases (s : State) :
    (s.clk.refreshRunning = true ∧
        execClkStop s = .next (respondOk (signalRefresh { s with clk := { s.clk with refreshStop := true } }))) ∨
      (s.clk.refreshRunning = false ∧ execClkStop s = .next (respondOk s)) := by
  unfold execClkStop
  cases h : s.clk.refreshRunning <;> simp

/-- CAP.START (42_edge_capture.md rule R180). -/
theorem execCapStart_cases (s : State) :
    (s.clk.started = true ∧ execCapStart s = .next (respondOk { s with cap := { s.cap with enabled := true } })) ∨
      (s.clk.started = false ∧ execCapStart s = .next (respondError .clockNotStarted s)) := by
  unfold execCapStart
  cases h : s.clk.started <;> simp

/-- CFG.WR (42_edge_capture.md rule R196). -/
theorem execCfgWr_cases (reg : CfgReg) (value : Word) (s : State) :
    (writeLegal reg value = true ∧
        execCfgWr reg value s = .next (respondOk { s with cfg := writeReg reg value s.cfg })) ∨
      (writeLegal reg value = false ∧ execCfgWr reg value s = .next (respondError .illegal s)) := by
  unfold execCfgWr
  cases h : writeLegal reg value <;> simp

/-- DEC.SUBMIT (43_decoder.md rule R230). -/
theorem execDecSubmit_cases (t0 : Micros) (seq : List Duration) (s : State) :
    (submitLegal s.params seq = true ∧
        execDecSubmit t0 seq s = .next (respond (enqueueStatus s) 0 [] (decEnqueue seq t0 s))) ∨
      (submitLegal s.params seq = false ∧ execDecSubmit t0 seq s = .next (respondError .illegal s)) := by
  unfold execDecSubmit
  cases h : submitLegal s.params seq <;> simp

/-- DEC.SHUTDOWN (43_decoder.md rule R248). -/
theorem execDecShutdown_cases (s : State) :
    (s.dec.worker = .exited ∧ execDecShutdown s = .next (respondOk s)) ∨
      (s.dec.worker ≠ .exited ∧
        execDecShutdown s = .next (holdResponse (signalQueue { s with dec := { s.dec with stop := true } }))) := by
  unfold execDecShutdown
  by_cases h : s.dec.worker = .exited <;> simp [h]

/-- ENC.ENCODE (44_encoder.md rule R280). -/
theorem execEncEncode_cases (chars : List CharCode) (s : State) :
    (∃ out, encodeLegal s.params chars = true ∧ encodeChars s.params chars = .ok out ∧
        execEncEncode chars s = .next (respond .ok (BitVec.ofNat 64 out.length) out s)) ∨
      (∃ i, encodeLegal s.params chars = true ∧ encodeChars s.params chars = .error i ∧
        execEncEncode chars s = .next (respond .invalidBits (BitVec.ofNat 64 i) [] s)) ∨
        (encodeLegal s.params chars = false ∧ execEncEncode chars s = .next (respondError .illegal s)) := by
  unfold execEncEncode
  cases hl : encodeLegal s.params chars
  · simp
  · cases he : encodeChars s.params chars <;> simp

/-- RES.POP (43_decoder.md rule R252). -/
theorem execResPop_cases (s : State) :
    (s.chan.res = [] ∧ execResPop s = .next (respondError .empty s)) ∨
      ∃ r rest, s.chan.res = r :: rest ∧
        execResPop s = .next (respond .ok ((recordCode r).setWidth 64) ((recordDigits r).map digitWord)
          { s with chan := { s.chan with res := rest } }) := by
  unfold execResPop
  cases h : s.chan.res <;> simp

/-- EDGE (42_edge_capture.md rules R182 to R184). -/
theorem execEdge_cases (level : Level) (tick : Tick) (s : State) :
    (s.cap.enabled = true ∧
        execEdge level tick s = .next (frameEdge level (clkEdgeTime tick s) (sampleClock s))) ∨
      (s.cap.enabled = false ∧ execEdge level tick s = .next s) := by
  unfold execEdge
  cases h : s.cap.enabled <;> simp

/-! ### The agents -/

/-- CLKR.TIMEOUT (41_clock.md rule R158). -/
theorem clkrTimeout_cases (s : State) :
    (s.clk.refreshStop = true ∧ clkrTimeout s = exitRefresh s) ∨
      (s.clk.refreshStop = false ∧ clkrTimeout s = sampleClock s) := by
  unfold clkrTimeout
  cases h : s.clk.refreshStop <;> simp

/-- CLKR.WAKE (41_clock.md rule R159). -/
theorem clkrWake_cases (s : State) :
    (s.clk.refreshStop = true ∧ clkrWake s = exitRefresh (waitRefresh s)) ∨
      (s.clk.refreshStop = false ∧ clkrWake s = waitRefresh s) := by
  unfold clkrWake
  cases h : s.clk.refreshStop <;> simp [h]

/-- WORKER.WAKE (43_decoder.md rule R232). -/
theorem workerWake_cases (s : State) :
    (s.dec.stop = true ∧ workerWake s = setWorker .exited (waitQueue s)) ∨
      (s.dec.stop = false ∧ workerWake s = setWorker .draining (waitQueue s)) := by
  unfold workerWake
  cases h : s.dec.stop <;> simp [h]

/-- WORKER.DECODE (43_decoder.md rule R233). -/
theorem workerDecode_cases (s : State) :
    (s.dec.queue = [] ∧ workerDecode s = s) ∨
      ∃ e rest, s.dec.queue = e :: rest ∧
        workerDecode s = emit (decodeFrame s.params e.seq) { s with dec := { s.dec with queue := rest } } := by
  unfold workerDecode
  cases h : s.dec.queue <;> simp

end Sys2Proof.Machine
end

section
/-! PROOF of O56. The parameters are kept by every agent, every operation and reset, so by every step, and by induction
along every run (10_state.md rule R59). -/

namespace Sys2Proof.Machine

open Sys2Proof

/-! ### Agents -/

theorem clkrTimeout_params (s : State) : (clkrTimeout s).params = s.params := by
  rcases clkrTimeout_cases s with ⟨_, h⟩ | ⟨_, h⟩ <;> simp [h]

theorem clkrWake_params (s : State) : (clkrWake s).params = s.params := by
  rcases clkrWake_cases s with ⟨_, h⟩ | ⟨_, h⟩ <;> simp [h]

theorem workerWake_params (s : State) : (workerWake s).params = s.params := by
  rcases workerWake_cases s with ⟨_, h⟩ | ⟨_, h⟩ <;> simp [h]

theorem workerDecode_params (s : State) : (workerDecode s).params = s.params := by
  rcases workerDecode_cases s with ⟨_, h⟩ | ⟨_, _, _, h⟩ <;> simp [h]

theorem perform_params (a : AgentStep) (s : State) : (perform a s).params = s.params := by
  cases a with
  | clkrTimeout => exact clkrTimeout_params s
  | clkrWake => exact clkrWake_params s
  | workerWake => exact workerWake_params s
  | workerDecode => exact workerDecode_params s
  | workerIdle => exact workerIdle_params s
  | workerExit => exact workerExit_params s
  | joinDone => exact joinDone_params s

@[simp] theorem agentStep_params (a : AgentStep) (s : State) : (agentStep a s).params = s.params := by
  rcases agentStep_cases a s with ⟨_, h⟩ | ⟨_, h⟩ <;> rw [h]
  exact perform_params a s

/-! ### Operations -/

/-- An operation answers one state only, so that state keeping the parameters is enough. -/
theorem params_of_next {o : Host.Outcome State Fault Refusal} {s t u : State} (ht : o = .next t) (hu : o = .next u)
    (h : u.params = s.params) : t.params = s.params := by
  rw [Host.Outcome.next.inj (ht.symm.trans hu), h]

section
variable {s t : State}

theorem execClkStart_params {refTick : Tick} (h : execClkStart refTick s = .next t) : t.params = s.params := by
  rcases execClkStart_cases refTick s with ⟨_, hu⟩ | ⟨_, hu⟩ <;> exact params_of_next h hu rfl

theorem execClkNow_params (h : execClkNow s = .next t) : t.params = s.params := by
  rcases execClkNow_cases s with ⟨_, hu⟩ | ⟨_, hu⟩ <;> exact params_of_next h hu rfl

theorem execClkConv_params {tick : Tick} (h : execClkConv tick s = .next t) : t.params = s.params := by
  rcases execClkConv_cases tick s with ⟨_, hu⟩ | ⟨_, hu⟩ <;> exact params_of_next h hu rfl

theorem execClkStop_params (h : execClkStop s = .next t) : t.params = s.params := by
  rcases execClkStop_cases s with ⟨_, hu⟩ | ⟨_, hu⟩ <;> exact params_of_next h hu rfl

theorem execCapStart_params (h : execCapStart s = .next t) : t.params = s.params := by
  rcases execCapStart_cases s with ⟨_, hu⟩ | ⟨_, hu⟩ <;> exact params_of_next h hu rfl

theorem execCapStop_params (h : execCapStop s = .next t) : t.params = s.params :=
  params_of_next h rfl rfl

theorem execCfgWr_params {reg : CfgReg} {value : Word} (h : execCfgWr reg value s = .next t) :
    t.params = s.params := by
  rcases execCfgWr_cases reg value s with ⟨_, hu⟩ | ⟨_, hu⟩ <;> exact params_of_next h hu rfl

theorem execCfgRd_params {reg : CfgReg} (h : execCfgRd reg s = .next t) : t.params = s.params :=
  params_of_next h rfl rfl

theorem execDecSubmit_params {t0 : Micros} {seq : List Duration} (h : execDecSubmit t0 seq s = .next t) :
    t.params = s.params := by
  rcases execDecSubmit_cases t0 seq s with ⟨_, hu⟩ | ⟨_, hu⟩
  · obtain ⟨_, _, _, _, _, hparams, _, _⟩ := decEnqueue_frame seq t0 s
    exact params_of_next h hu hparams
  · exact params_of_next h hu rfl

theorem execDecShutdown_params (h : execDecShutdown s = .next t) : t.params = s.params := by
  rcases execDecShutdown_cases s with ⟨_, hu⟩ | ⟨_, hu⟩ <;> exact params_of_next h hu rfl

theorem execEncEncode_params {chars : List CharCode} (h : execEncEncode chars s = .next t) :
    t.params = s.params := by
  rcases execEncEncode_cases chars s with ⟨_, _, _, hu⟩ | ⟨_, _, _, hu⟩ | ⟨_, hu⟩ <;> exact params_of_next h hu rfl

theorem execResPop_params (h : execResPop s = .next t) : t.params = s.params := by
  rcases execResPop_cases s with ⟨_, hu⟩ | ⟨_, _, _, hu⟩ <;> exact params_of_next h hu rfl

theorem execEdge_params {level : Level} {tick : Tick} (h : execEdge level tick s = .next t) :
    t.params = s.params := by
  rcases execEdge_cases level tick s with ⟨_, hu⟩ | ⟨_, hu⟩
  · obtain ⟨_, _, _, _, hparams, _, _⟩ := frameEdge_frame level (clkEdgeTime tick s) (sampleClock s)
    exact params_of_next h hu hparams
  · exact params_of_next h hu rfl

/-- No operation writes a parameter. -/
theorem exec_params {i : Instr} (h : exec i s = .next t) : t.params = s.params := by
  cases i with
  | clkStart refTick => exact execClkStart_params h
  | clkNow => exact execClkNow_params h
  | clkConv tick => exact execClkConv_params h
  | clkStop => exact execClkStop_params h
  | capStart => exact execCapStart_params h
  | capStop => exact execCapStop_params h
  | cfgWr reg value => exact execCfgWr_params h
  | cfgRd reg => exact execCfgRd_params h
  | decSubmit t0 seq => exact execDecSubmit_params h
  | decShutdown => exact execDecShutdown_params h
  | encEncode chars => exact execEncEncode_params h
  | resPop => exact execResPop_params h
  | edge level tick => exact execEdge_params h

/-! ### Steps and runs -/

/-- No step writes a parameter, reset among them (10_state.md rule R59, logs 11 and 20). -/
theorem step_params (h : step s = .next t) : t.params = s.params := by
  rcases step_cases h with ⟨a, _, rfl⟩ | ⟨_, rfl⟩ | ⟨p, _, _, rfl⟩ | ⟨p, why, _, _, _, rfl⟩ | ⟨p, i, _, _, _, hexec⟩
  · simp
  · simp
  · simp
  · simp
  · exact (exec_params hexec).trans (takeStimulus_params s)

/-- The induction along a run: what every step keeps, every run keeps. -/
theorem Reaches.keeps {α : Type} {f : State → α} (hstep : ∀ {u v : State}, step u = .next v → f v = f u)
    (h : Reaches s t) : f t = f s := by
  induction h with
  | refl => rfl
  | tail _ hlast ih => exact (hstep hlast).trans ih

end

/-- Settles O56: `rfl` compares the reset state's parameters with the spec's values, and every run keeps what every
step keeps. -/
theorem parametersNeverChange : Obligations.ParametersNeverChange :=
  ⟨rfl, fun _ _ hrun => hrun.keeps (f := State.params) step_params⟩

end Sys2Proof.Machine
end

section
/-! LAWS. The state field by field: which fields an operation, an agent's step and a whole step may write. Every field
outside that footprint is kept. -/

namespace Sys2Proof.Machine

open Sys2Proof Sys2Proof.Claims

/-! ### Fields and footprints -/

/-- The fields of 10_state.md rule R32, the thresholds as one, and the port's response (log 5). -/
inductive StateField where
  | started
  | lastTick
  | total
  | refreshRunning
  | refreshStop
  | refreshEv
  | enabled
  | lastLevel
  | lastTime
  | start
  | buf
  | cfg
  | queue
  | qEv
  | stop
  | worker
  | qDrop
  | res
  | joinPending
  | response
  deriving DecidableEq

/-- The field reads the same in both states. -/
def StateField.Kept (s t : State) : StateField → Prop
  | .started => t.clk.started = s.clk.started
  | .lastTick => t.clk.lastTick = s.clk.lastTick
  | .total => t.clk.total = s.clk.total
  | .refreshRunning => t.clk.refreshRunning = s.clk.refreshRunning
  | .refreshStop => t.clk.refreshStop = s.clk.refreshStop
  | .refreshEv => t.clk.refreshEv = s.clk.refreshEv
  | .enabled => t.cap.enabled = s.cap.enabled
  | .lastLevel => t.cap.lastLevel = s.cap.lastLevel
  | .lastTime => t.cap.lastTime = s.cap.lastTime
  | .start => t.cap.start = s.cap.start
  | .buf => t.cap.buf = s.cap.buf
  | .cfg => t.cfg = s.cfg
  | .queue => t.dec.queue = s.dec.queue
  | .qEv => t.dec.qEv = s.dec.qEv
  | .stop => t.dec.stop = s.dec.stop
  | .worker => t.dec.worker = s.dec.worker
  | .qDrop => t.dec.qDrop = s.dec.qDrop
  | .res => t.chan.res = s.chan.res
  | .joinPending => t.chan.joinPending = s.chan.joinPending
  | .response => t.chan.response = s.chan.response

/-- Only the listed fields may differ between the two states. -/
def WritesOnly (fs : List StateField) (s t : State) : Prop := ∀ f, f ∉ fs → f.Kept s t

/-- What each operation may write. -/
def footprint : Instr → List StateField
  | .clkStart _ => [.response, .started, .lastTick, .total, .refreshRunning, .refreshStop, .refreshEv]
  | .clkNow => [.response, .lastTick, .total]
  | .clkConv _ => [.response]
  | .clkStop => [.response, .refreshStop, .refreshEv]
  | .capStart => [.response, .enabled]
  | .capStop => [.response, .enabled, .lastLevel, .start, .buf]
  | .cfgWr _ _ => [.response, .cfg]
  | .cfgRd _ => [.response]
  | .decSubmit _ _ => [.response, .queue, .qEv, .qDrop]
  | .decShutdown => [.response, .stop, .qEv, .joinPending]
  | .encEncode _ => [.response]
  | .resPop => [.response, .res]
  | .edge _ _ => [.lastTick, .total, .lastLevel, .lastTime, .start, .buf, .queue, .qEv, .qDrop]

/-- What each agent's step may write. -/
def agentFootprint : AgentStep → List StateField
  | .clkrTimeout => [.refreshRunning, .lastTick, .total]
  | .clkrWake => [.refreshRunning, .refreshEv]
  | .workerWake => [.qEv, .worker]
  | .workerDecode => [.queue, .res]
  | .workerIdle => [.worker]
  | .workerExit => [.worker]
  | .joinDone => [.joinPending, .response]

section
variable {fs : List StateField} {s t u : State} {f : StateField}

theorem StateField.Kept.trans (hst : f.Kept s t) (htu : f.Kept t u) : f.Kept s u := by
  cases f <;> exact Eq.trans htu hst

theorem WritesOnly.refl (fs : List StateField) (s : State) : WritesOnly fs s s := fun f _ => by
  cases f <;> rfl

theorem WritesOnly.trans (hst : WritesOnly fs s t) (htu : WritesOnly fs t u) : WritesOnly fs s u :=
  fun f hf => (hst f hf).trans (htu f hf)

/-- An answer writes the response alone (30_encoding.md rule R128). -/
theorem WritesOnly.respond (hu : WritesOnly fs s u) (hfs : .response ∈ fs) (st : Status) (v : Word) (p : List Word) :
    WritesOnly fs s (respond st v p u) :=
  hu.trans fun f hf => by
    cases f with
    | response => exact absurd hfs hf
    | _ => rfl

/-- An operation answers one state only, so what is shown of that state holds of its outcome. -/
theorem WritesOnly.of_next {o : Host.Outcome State Fault Refusal} (hu : WritesOnly fs s u) (ht : o = .next t)
    (ho : o = .next u) : WritesOnly fs s t := by
  rw [Host.Outcome.next.inj (ht.symm.trans ho)]
  exact hu

/-- A refused command writes the response alone (60_exceptions.md rule R301). -/
theorem respondError_writesOnly (hfs : .response ∈ fs) (st : Status) (s : State) :
    WritesOnly fs s (respondError st s) :=
  (WritesOnly.refl fs s).respond hfs st 0 []

/-- The stimulus is no field of the block's state. -/
theorem takeStimulus_writesOnly (fs : List StateField) (s : State) : WritesOnly fs s (takeStimulus s) := fun f _ => by
  cases f <;> rfl

/-! ### The operations -/

theorem sampleClock_writesOnly (hlast : .lastTick ∈ fs) (htotal : .total ∈ fs) (s : State) :
    WritesOnly fs s (sampleClock s) := fun f hf => by
  cases f with
  | lastTick => exact absurd hlast hf
  | total => exact absurd htotal hf
  | _ => rfl

theorem execClkStart_writesOnly {refTick : Tick} (h : execClkStart refTick s = .next t) :
    WritesOnly (footprint (.clkStart refTick)) s t := by
  rcases execClkStart_cases refTick s with ⟨_, ho⟩ | ⟨_, ho⟩
  · exact (respondError_writesOnly (by simp [footprint]) _ _).of_next h ho
  · refine WritesOnly.of_next (fun f hf => ?_) h ho
    cases f with
    | response | started | lastTick | total | refreshRunning | refreshStop | refreshEv => simp [footprint] at hf
    | _ => rfl

theorem execClkNow_writesOnly (h : execClkNow s = .next t) : WritesOnly (footprint .clkNow) s t := by
  rcases execClkNow_cases s with ⟨_, ho⟩ | ⟨_, ho⟩
  · exact ((sampleClock_writesOnly (by decide) (by decide) s).respond (by decide) _ _ _).of_next h ho
  · exact (respondError_writesOnly (by decide) _ _).of_next h ho

theorem execClkConv_writesOnly {tick : Tick} (h : execClkConv tick s = .next t) :
    WritesOnly (footprint (.clkConv tick)) s t := by
  rcases execClkConv_cases tick s with ⟨_, ho⟩ | ⟨_, ho⟩ <;>
    exact ((WritesOnly.refl _ s).respond (by simp [footprint]) _ _ _).of_next h ho

theorem execClkStop_writesOnly (h : execClkStop s = .next t) : WritesOnly (footprint .clkStop) s t := by
  rcases execClkStop_cases s with ⟨_, ho⟩ | ⟨_, ho⟩
  · refine WritesOnly.of_next (fun f hf => ?_) h ho
    cases f with
    | response | refreshStop | refreshEv => simp [footprint] at hf
    | _ => rfl
  · exact ((WritesOnly.refl _ s).respond (by decide) _ _ _).of_next h ho

theorem execCapStart_writesOnly (h : execCapStart s = .next t) : WritesOnly (footprint .capStart) s t := by
  rcases execCapStart_cases s with ⟨_, ho⟩ | ⟨_, ho⟩
  · refine WritesOnly.of_next (fun f hf => ?_) h ho
    cases f with
    | response | enabled => simp [footprint] at hf
    | _ => rfl
  · exact (respondError_writesOnly (by decide) _ _).of_next h ho

theorem execCapStop_writesOnly (h : execCapStop s = .next t) : WritesOnly (footprint .capStop) s t := by
  refine WritesOnly.of_next (fun f hf => ?_) h rfl
  cases f with
  | response | enabled | lastLevel | start | buf => simp [footprint] at hf
  | _ => rfl

theorem execCfgWr_writesOnly {reg : CfgReg} {value : Word} (h : execCfgWr reg value s = .next t) :
    WritesOnly (footprint (.cfgWr reg value)) s t := by
  rcases execCfgWr_cases reg value s with ⟨_, ho⟩ | ⟨_, ho⟩
  · refine WritesOnly.of_next (fun f hf => ?_) h ho
    cases f with
    | response | cfg => simp [footprint] at hf
    | _ => rfl
  · exact (respondError_writesOnly (by simp [footprint]) _ _).of_next h ho

theorem execCfgRd_writesOnly {reg : CfgReg} (h : execCfgRd reg s = .next t) : WritesOnly (footprint (.cfgRd reg)) s t :=
  ((WritesOnly.refl _ s).respond (by simp [footprint]) _ _ _).of_next h rfl

theorem decEnqueue_writesOnly (hqueue : .queue ∈ fs) (hqEv : .qEv ∈ fs) (hqDrop : .qDrop ∈ fs) (seq : List Duration)
    (t0 : Micros) (s : State) : WritesOnly fs s (decEnqueue seq t0 s) := fun f hf => by
  obtain ⟨hclk, hcap, hcfg, hchan, _, _, hworker, hstop⟩ := decEnqueue_frame seq t0 s
  cases f with
  | queue => exact absurd hqueue hf
  | qEv => exact absurd hqEv hf
  | qDrop => exact absurd hqDrop hf
  | _ => simp [StateField.Kept, hclk, hcap, hcfg, hchan, hworker, hstop]

theorem execDecSubmit_writesOnly {t0 : Micros} {seq : List Duration} (h : execDecSubmit t0 seq s = .next t) :
    WritesOnly (footprint (.decSubmit t0 seq)) s t := by
  rcases execDecSubmit_cases t0 seq s with ⟨_, ho⟩ | ⟨_, ho⟩
  · have henqueue : WritesOnly (footprint (.decSubmit t0 seq)) s (decEnqueue seq t0 s) :=
      decEnqueue_writesOnly (by simp [footprint]) (by simp [footprint]) (by simp [footprint]) seq t0 s
    exact (henqueue.respond (by simp [footprint]) _ _ _).of_next h ho
  · exact (respondError_writesOnly (by simp [footprint]) _ _).of_next h ho

theorem execDecShutdown_writesOnly (h : execDecShutdown s = .next t) : WritesOnly (footprint .decShutdown) s t := by
  rcases execDecShutdown_cases s with ⟨_, ho⟩ | ⟨_, ho⟩
  · exact ((WritesOnly.refl _ s).respond (by decide) _ _ _).of_next h ho
  · refine WritesOnly.of_next (fun f hf => ?_) h ho
    cases f with
    | response | stop | qEv | joinPending => simp [footprint] at hf
    | _ => rfl

theorem execEncEncode_writesOnly {chars : List CharCode} (h : execEncEncode chars s = .next t) :
    WritesOnly (footprint (.encEncode chars)) s t := by
  rcases execEncEncode_cases chars s with ⟨_, _, _, ho⟩ | ⟨_, _, _, ho⟩ | ⟨_, ho⟩ <;>
    exact ((WritesOnly.refl _ s).respond (by simp [footprint]) _ _ _).of_next h ho

theorem execResPop_writesOnly (h : execResPop s = .next t) : WritesOnly (footprint .resPop) s t := by
  rcases execResPop_cases s with ⟨_, ho⟩ | ⟨_, _, _, ho⟩
  · exact (respondError_writesOnly (by decide) _ _).of_next h ho
  · refine WritesOnly.of_next (fun f hf => ?_) h ho
    cases f with
    | response | res => simp [footprint] at hf
    | _ => rfl

/-- The framing step leaves capture enabled or disabled as it was (42_edge_capture.md rules R185 to R193). -/
theorem frameEdge_enabled (level : Level) (time : Micros) (s : State) :
    (frameEdge level time s).cap.enabled = s.cap.enabled := by
  rcases frameEdge_cases level time s with ⟨_, h⟩ | ⟨_, _, h⟩ | ⟨_, _, h⟩ <;> rw [h]
  · rcases idleEdge_cases level time s with ⟨_, _, hi⟩ | ⟨_, _, _, _, hi⟩ | hi <;> simp [hi]
  · obtain ⟨_, hcap, _⟩ := handOff_frame (s.cap.buf ++ [time - s.cap.lastTime]) time s
    rcases accumEdge_cases level time s with ⟨_, ha⟩ | ⟨_, ha⟩ <;> simp [ha, hcap]

/-- The framing step writes the framer's fields but `enabled` and, by its hand-off, the queue's. -/
theorem frameEdge_writesOnly (level : Level) (tick : Tick) (time : Micros) (s : State) :
    WritesOnly (footprint (.edge level tick)) s (frameEdge level time s) := fun f hf => by
  obtain ⟨hclk, hcfg, hchan, _, _, hworker, hstop⟩ := frameEdge_frame level time s
  cases f with
  | enabled => exact frameEdge_enabled level time s
  | lastLevel | lastTime | start | buf | queue | qEv | qDrop => simp [footprint] at hf
  | _ => simp [StateField.Kept, hclk, hcfg, hchan, hworker, hstop]

theorem execEdge_writesOnly {level : Level} {tick : Tick} (h : execEdge level tick s = .next t) :
    WritesOnly (footprint (.edge level tick)) s t := by
  rcases execEdge_cases level tick s with ⟨_, ho⟩ | ⟨_, ho⟩
  · have hsample : WritesOnly (footprint (.edge level tick)) s (sampleClock s) :=
      sampleClock_writesOnly (by simp [footprint]) (by simp [footprint]) s
    exact (hsample.trans (frameEdge_writesOnly level tick _ _)).of_next h ho
  · exact (WritesOnly.refl _ s).of_next h ho

/-- An operation writes its footprint only. -/
theorem exec_writesOnly {i : Instr} (h : exec i s = .next t) : WritesOnly (footprint i) s t := by
  cases i with
  | clkStart refTick => exact execClkStart_writesOnly h
  | clkNow => exact execClkNow_writesOnly h
  | clkConv tick => exact execClkConv_writesOnly h
  | clkStop => exact execClkStop_writesOnly h
  | capStart => exact execCapStart_writesOnly h
  | capStop => exact execCapStop_writesOnly h
  | cfgWr reg value => exact execCfgWr_writesOnly h
  | cfgRd reg => exact execCfgRd_writesOnly h
  | decSubmit t0 seq => exact execDecSubmit_writesOnly h
  | decShutdown => exact execDecShutdown_writesOnly h
  | encEncode chars => exact execEncEncode_writesOnly h
  | resPop => exact execResPop_writesOnly h
  | edge level tick => exact execEdge_writesOnly h

/-! ### The agents -/

theorem exitRefresh_writesOnly (hfs : .refreshRunning ∈ fs) (s : State) : WritesOnly fs s (exitRefresh s) :=
  fun f hf => by
    cases f with
    | refreshRunning => exact absurd hfs hf
    | _ => rfl

theorem waitRefresh_writesOnly (hfs : .refreshEv ∈ fs) (s : State) : WritesOnly fs s (waitRefresh s) := fun f hf => by
  cases f with
  | refreshEv => exact absurd hfs hf
  | _ => rfl

theorem waitQueue_writesOnly (hfs : .qEv ∈ fs) (s : State) : WritesOnly fs s (waitQueue s) := fun f hf => by
  cases f with
  | qEv => exact absurd hfs hf
  | _ => rfl

theorem setWorker_writesOnly (hfs : .worker ∈ fs) (w : WorkerState) (s : State) : WritesOnly fs s (setWorker w s) :=
  fun f hf => by
    cases f with
    | worker => exact absurd hfs hf
    | _ => rfl

theorem clkrTimeout_writesOnly (s : State) : WritesOnly (agentFootprint .clkrTimeout) s (clkrTimeout s) := by
  rcases clkrTimeout_cases s with ⟨_, h⟩ | ⟨_, h⟩ <;> rw [h]
  · exact exitRefresh_writesOnly (by decide) s
  · exact sampleClock_writesOnly (by decide) (by decide) s

theorem clkrWake_writesOnly (s : State) : WritesOnly (agentFootprint .clkrWake) s (clkrWake s) := by
  have hwait : WritesOnly (agentFootprint .clkrWake) s (waitRefresh s) := waitRefresh_writesOnly (by decide) s
  rcases clkrWake_cases s with ⟨_, h⟩ | ⟨_, h⟩ <;> rw [h]
  · exact hwait.trans (exitRefresh_writesOnly (by decide) _)
  · exact hwait

theorem workerWake_writesOnly (s : State) : WritesOnly (agentFootprint .workerWake) s (workerWake s) := by
  rcases workerWake_cases s with ⟨_, h⟩ | ⟨_, h⟩ <;> rw [h] <;>
    exact (waitQueue_writesOnly (by decide) s).trans (setWorker_writesOnly (by decide) _ _)

theorem workerDecode_writesOnly (s : State) : WritesOnly (agentFootprint .workerDecode) s (workerDecode s) := by
  rcases workerDecode_cases s with ⟨_, h⟩ | ⟨_, _, _, h⟩ <;> rw [h]
  · exact WritesOnly.refl _ s
  · intro f hf
    cases f with
    | queue | res => simp [agentFootprint] at hf
    | _ => rfl

theorem joinDone_writesOnly (s : State) : WritesOnly (agentFootprint .joinDone) s (joinDone s) := fun f hf => by
  cases f with
  | joinPending | response => simp [agentFootprint] at hf
  | _ => rfl

/-- An agent writes its footprint only, and nothing while it is not enabled (log 2). -/
theorem agentStep_writesOnly (a : AgentStep) (s : State) : WritesOnly (agentFootprint a) s (agentStep a s) := by
  rcases agentStep_cases a s with ⟨_, h⟩ | ⟨_, h⟩ <;> rw [h]
  · cases a with
    | clkrTimeout => exact clkrTimeout_writesOnly s
    | clkrWake => exact clkrWake_writesOnly s
    | workerWake => exact workerWake_writesOnly s
    | workerDecode => exact workerDecode_writesOnly s
    | workerIdle => exact setWorker_writesOnly (by decide) _ s
    | workerExit => exact setWorker_writesOnly (by decide) _ s
    | joinDone => exact joinDone_writesOnly s
  · exact WritesOnly.refl _ s

/-! ### Steps -/

theorem step_eq_of_reset (hact : (nextStimulus s).action = .reset) :
    step s = .next (resetEvent (takeStimulus s)) := by
  simp [step, hact]

/-- Who can have changed a field in a step that is not reset: an agent or an operation with the field in its footprint,
or, for the response, a command that the decoder rejects. -/
theorem step_writer (h : step s = .next t) (hreset : (nextStimulus s).action ≠ .reset) (hf : ¬f.Kept s t) :
    (∃ a, (nextStimulus s).action = .agent a ∧ f ∈ agentFootprint a) ∨
      (∃ p i, (nextStimulus s).action = .port p ∧ decode s.params p = .ok i ∧ f ∈ footprint i) ∨
        (f = .response ∧ ∃ p why, (nextStimulus s).action = .port p ∧ decode s.params p = .error why) := by
  have written {fs : List StateField} (hw : WritesOnly fs (takeStimulus s) t) : f ∈ fs :=
    by_contra fun hmem => hf (((takeStimulus_writesOnly fs s).trans hw) f hmem)
  rcases step_cases h with
    ⟨a, hact, rfl⟩ | ⟨hact, _⟩ | ⟨p, _, _, rfl⟩ | ⟨p, why, hact, _, hdec, rfl⟩ | ⟨p, i, hact, _, hdec, hexec⟩
  · exact .inl ⟨a, hact, written (agentStep_writesOnly a _)⟩
  · exact absurd hact hreset
  · exact absurd (written (WritesOnly.refl [] _)) List.not_mem_nil
  · exact .inr (.inr ⟨List.mem_singleton.mp (written (respondError_writesOnly (List.mem_singleton_self _) _ _)),
      p, why, hact, hdec⟩)
  · exact .inr (.inl ⟨p, i, hact, hdec, written (exec_writesOnly hexec)⟩)

end

end Sys2Proof.Machine
end

section
/-! PROOFS of O59, O58 and O37. Each field's owners are read off the footprints (10_state.md rules R32 to R56), and
STATUS is computed from five flags (rule R46). -/

namespace Sys2Proof.Machine

open Sys2Proof Sys2Proof.Claims

/-! ### The owners of each field -/

/-- The agents' steps that may change the field. -/
def StateField.agents : StateField → List AgentStep
  | .lastTick | .total => [.clkrTimeout]
  | .refreshRunning => [.clkrTimeout, .clkrWake]
  | .refreshEv => [.clkrWake]
  | .queue | .res => [.workerDecode]
  | .qEv => [.workerWake]
  | .worker => [.workerWake, .workerIdle, .workerExit]
  | .joinPending | .response => [.joinDone]
  | .started | .refreshStop | .enabled | .lastLevel | .lastTime | .start | .buf | .cfg | .stop | .qDrop => []

/-- The mnemonics of the operations that may change the field. -/
def StateField.mnemonics : StateField → List String
  | .started | .refreshRunning => ["CLK.START"]
  | .lastTick | .total => ["CLK.START", "CLK.NOW", "EDGE"]
  | .refreshStop | .refreshEv => ["CLK.START", "CLK.STOP"]
  | .enabled => ["CAP.START", "CAP.STOP"]
  | .lastLevel | .start | .buf => ["CAP.STOP", "EDGE"]
  | .lastTime => ["EDGE"]
  | .cfg => ["CFG.WR"]
  | .queue | .qDrop => ["DEC.SUBMIT", "EDGE"]
  | .qEv => ["DEC.SUBMIT", "DEC.SHUTDOWN", "EDGE"]
  | .stop | .joinPending => ["DEC.SHUTDOWN"]
  | .worker => []
  | .res => ["RES.POP"]
  | .response => opTable.map OpRow.mnemonic

theorem mem_agents_of_mem_footprint (a : AgentStep) : ∀ f ∈ agentFootprint a, a ∈ f.agents := by
  cases a <;> decide

theorem mem_mnemonics_of_mem_footprint (i : Instr) : ∀ f ∈ footprint i, i.mnemonic ∈ f.mnemonics := by
  cases i <;> simp [footprint, StateField.mnemonics, Instr.mnemonic, opTable]

section
variable {s t : State}

/-- A field of the spec's state that a step changes was moved by one of its owners. -/
theorem movedBy_of_not_kept (h : step s = .next t) (hreset : (nextStimulus s).action ≠ .reset) (f : StateField)
    (hresponse : f ≠ .response) (hf : ¬f.Kept s t) : movedBy s f.agents f.mnemonics := by
  rcases step_writer h hreset hf with ⟨a, hact, hmem⟩ | ⟨p, i, hact, hdec, hmem⟩ | ⟨hr, _⟩
  · exact .inl ⟨a, mem_agents_of_mem_footprint a f hmem, hact⟩
  · exact .inr ⟨p, i, hact, hdec, mem_mnemonics_of_mem_footprint i f hmem⟩
  · exact absurd hr hresponse

/-- An edge event has no response (30_encoding.md rule R128). -/
theorem response_not_mem_footprint_event (w : BitVec 33) : .response ∉ footprint (decodeEvent w) := by
  simp [decodeEvent, footprint]

/-- The response changes only by a command or by the join completion (30_encoding.md rule R128, log 5). -/
theorem movedByCommandOrJoin_of_response (h : step s = .next t) (hreset : (nextStimulus s).action ≠ .reset)
    (hf : t.chan.response ≠ s.chan.response) : movedByCommandOrJoin s := by
  rcases step_writer (f := .response) h hreset hf with
    ⟨a, hact, hmem⟩ | ⟨p, i, hact, hdec, hmem⟩ | ⟨_, p, why, hact, hdec⟩
  · have ha : a = .joinDone := List.mem_singleton.mp (mem_agents_of_mem_footprint a .response hmem)
    exact .inr (ha ▸ hact)
  · cases p with
    | cmd c => exact .inl ⟨c, hact⟩
    | event w => exact absurd (Except.ok.inj hdec ▸ hmem) (response_not_mem_footprint_event w)
  · cases p with
    | cmd c => exact .inl ⟨c, hact⟩
    | event w => cases hdec

end

/-- Settles O59: each clause is `movedBy_of_not_kept` at its field, and the last one is the response's own lemma. -/
theorem groupsChangeOnlyByTheirOwnOperations : Obligations.GroupsChangeOnlyByTheirOwnOperations := by
  intro s t h hreset
  have moved := movedBy_of_not_kept h hreset
  exact ⟨moved .started (by decide), moved .lastTick (by decide), moved .total (by decide),
    moved .refreshRunning (by decide), moved .refreshStop (by decide), moved .refreshEv (by decide),
    moved .enabled (by decide), moved .lastLevel (by decide), moved .lastTime (by decide), moved .start (by decide),
    moved .buf (by decide), moved .cfg (by decide), moved .queue (by decide), moved .qEv (by decide),
    moved .stop (by decide), moved .worker (by decide), moved .qDrop (by decide), moved .res (by decide),
    moved .joinPending (by decide), movedByCommandOrJoin_of_response h hreset⟩

/-! ### The stop flag -/

/-- DEC.SHUTDOWN is the one operation that may write the stop flag. -/
theorem eq_decShutdown_of_stop_mem_footprint {i : Instr} (h : .stop ∈ footprint i) : i = .decShutdown := by
  cases i with
  | decShutdown => rfl
  | _ => simp [footprint] at h

/-- Settles O58: reset clears the stop flag, and of all other steps only DEC.SHUTDOWN has it in its footprint. -/
theorem onlyShutdownStopsTheDecoder : Obligations.OnlyShutdownStopsTheDecoder := by
  intro s t h hs ht
  have hreset : (nextStimulus s).action ≠ .reset := fun hact => by
    cases Host.Outcome.next.inj (h.symm.trans (step_eq_of_reset hact))
    cases ht
  have hchanged : ¬StateField.stop.Kept s t := by simp [StateField.Kept, hs, ht]
  rcases step_writer h hreset hchanged with ⟨a, _, hmem⟩ | ⟨p, i, hact, hdec, hmem⟩ | ⟨hr, _⟩
  · exact absurd (mem_agents_of_mem_footprint a _ hmem) List.not_mem_nil
  · exact ⟨p, hact, eq_decShutdown_of_stop_mem_footprint hmem ▸ hdec⟩
  · cases hr

/-! ### STATUS -/

/-- Five flags under three zero bits: each flag is read back at its place, and the byte is below 32. -/
theorem flagByte_bits (b4 b3 b2 b1 b0 : Bool) :
    let w := 0#3 ++ BitVec.ofBool b4 ++ BitVec.ofBool b3 ++ BitVec.ofBool b2 ++ BitVec.ofBool b1 ++ BitVec.ofBool b0
    w.getLsbD 0 = b0 ∧ w.getLsbD 1 = b1 ∧ w.getLsbD 2 = b2 ∧ w.getLsbD 3 = b3 ∧ w.getLsbD 4 = b4 ∧ w.toNat < 32 := by
  decide +revert

/-- Settles O37: the byte's bits are the five flags that `statusWord` puts there. -/
theorem statusBitsShowTheirFlags : Obligations.StatusBitsShowTheirFlags := by
  refine ⟨by decide, fun s => ?_⟩
  obtain ⟨h0, h1, h2, h3, h4, hlt⟩ := flagByte_bits (s.dec.worker != .exited) (!s.cap.buf.isEmpty) s.cap.enabled
    s.clk.refreshRunning s.clk.started
  unfold statusWord
  rw [h0, h1, h2, h3, h4]
  have hbuf : (!s.cap.buf.isEmpty) = true ↔ 0 < s.cap.buf.length := by simp [List.length_pos_iff]
  exact ⟨Iff.rfl, Iff.rfl, Iff.rfl, hbuf, bne_iff_ne, hlt⟩

end Sys2Proof.Machine
end

section
/-! LAWS. One equation for each kind of stimulus a step can take, what the environment is after it, and the two events of
20_memory.md rules R82 to R84: a signal is idempotent, and the step that waits consumes it. -/

namespace Sys2Proof.Machine

open Sys2Proof

/-! ### The stimulus -/

theorem nextStimulus_of_cons {s : State} {st : Stimulus} {rest : List Stimulus} (h : s.env.inputs = st :: rest) :
    nextStimulus s = st := by
  simp [nextStimulus, h]

theorem nextStimulus_of_nil {s : State} (h : s.env.inputs = []) :
    nextStimulus s = Config.freeStimulus s.env.draws := by
  simp [nextStimulus, h]

@[simp] theorem advanceEnv_tickNow (e : EnvState) (t : Tick) : (advanceEnv e t).tickNow = t := by
  unfold advanceEnv
  cases e.inputs <;> rfl

@[simp] theorem advanceEnv_inputs (e : EnvState) (t : Tick) : (advanceEnv e t).inputs = e.inputs.tail := by
  unfold advanceEnv
  cases e.inputs <;> rfl

/-- A free stimulus is counted, a listed one is not (log 4). -/
@[simp] theorem advanceEnv_draws (e : EnvState) (t : Tick) :
    (advanceEnv e t).draws = if e.inputs = [] then e.draws + 1 else e.draws := by
  unfold advanceEnv
  cases e.inputs <;> simp

/-! ### The step of each kind of stimulus -/

/-- The port is ready unless a join keeps a command out (30_encoding.md rule R110). -/
theorem accepts_iff {p : PortWord} {s : State} :
    accepts p s = true ↔ s.chan.joinPending = false ∨ ∃ w, p = .event w := by
  cases p <;> simp [accepts]

@[simp] theorem accepts_takeStimulus (p : PortWord) (s : State) : accepts p (takeStimulus s) = accepts p s := by
  cases p <;> rfl

theorem portStep_eq_exec {p : PortWord} {s : State} {i : Instr} (hacc : accepts p s = true)
    (hdec : decode s.params p = .ok i) : portStep p s = exec i s := by
  simp [portStep, hacc, hdec]

theorem step_eq_of_port {s : State} {p : PortWord} (hact : (nextStimulus s).action = .port p) :
    step s = portStep p (takeStimulus s) := by
  simp [step, hact]

theorem step_eq_of_agent {s : State} {a : AgentStep} (hact : (nextStimulus s).action = .agent a) :
    step s = .next (agentStep a (takeStimulus s)) := by
  simp [step, hact]

/-- Taking the stimulus changes neither the port's readiness nor the parameters the decoder reads, so the word may be
judged in the state before it. -/
theorem step_eq_exec {s : State} {p : PortWord} {i : Instr} (hact : (nextStimulus s).action = .port p)
    (hacc : accepts p s = true) (hdec : decode s.params p = .ok i) : step s = exec i (takeStimulus s) := by
  rw [step_eq_of_port hact, portStep_eq_exec ((accepts_takeStimulus p s).trans hacc) hdec]

/-! ### The events -/

theorem signalQueue_idem (s : State) : signalQueue (signalQueue s) = signalQueue s := rfl

theorem signalRefresh_idem (s : State) : signalRefresh (signalRefresh s) = signalRefresh s := rfl

/-- WORKER.WAKE consumes the wakeup, whether the worker then exits or drains (43_decoder.md rule R232). -/
theorem workerWake_qEv (s : State) : (workerWake s).dec.qEv = false := by
  rcases workerWake_cases s with ⟨_, h⟩ | ⟨_, h⟩ <;> simp [h]

/-- CLKR.WAKE consumes the wakeup, whether the task then exits or goes on (41_clock.md rule R159). -/
theorem clkrWake_refreshEv (s : State) : (clkrWake s).clk.refreshEv = false := by
  rcases clkrWake_cases s with ⟨_, h⟩ | ⟨_, h⟩ <;> simp [h]

theorem workerWake_not_enabled_of_clear {s : State} (h : s.dec.qEv = false) : enabled .workerWake s = false := by
  simp [enabled, h]

theorem clkrWake_not_enabled_of_clear {s : State} (h : s.clk.refreshEv = false) : enabled .clkrWake s = false := by
  simp [enabled, h]

end Sys2Proof.Machine
end

section
/-! PROOFS of O3 and O45. A step is its stimulus (20_memory.md rules R75, R76), and an event remembers one wakeup (rules
R82 to R84). -/

namespace Sys2Proof.Machine

open Sys2Proof

/-- Settles O3: the equation of each kind of stimulus, and the environment's fields after the stimulus is taken. -/
theorem stepRunsTheDecodedOperation : Obligations.StepRunsTheDecodedOperation := by
  refine ⟨fun _ _ => step_eq_of_port, fun _ _ _ hact hready => step_eq_exec hact (accepts_iff.mpr hready),
    fun _ _ => step_eq_of_agent, fun _ _ _ => nextStimulus_of_cons, fun _ => nextStimulus_of_nil, fun s => ?_⟩
  rw [takeStimulus_env]
  exact ⟨rfl, advanceEnv_tickNow _ _, advanceEnv_inputs _ _, advanceEnv_draws _ _⟩

/-- Settles O45: for each event, its signal is idempotent and sets it, and the waiting step clears it and needs it. -/
theorem signalsCollapseIntoOneWakeup : Obligations.SignalsCollapseIntoOneWakeup := fun s =>
  ⟨signalQueue_idem s, by simp, signalRefresh_idem s, by simp, workerWake_qEv s, clkrWake_refreshEv s,
    workerWake_not_enabled_of_clear, clkrWake_not_enabled_of_clear⟩

end Sys2Proof.Machine
end

section
/-! LAWS. The fields of a port word and the decoder's checks: which words each reader of a field takes, what the two
fields of the header are, and, for each operand form, that a command is read as exactly the operation whose encoding it
is (30_encoding.md rules R111 to R118). -/

namespace Sys2Proof.Machine

open Sys2Proof

/-! ### Operand fields -/

/-- The upper bits of a narrow operand's field must be 0, so the operand determines the field (rule R112). -/
theorem narrow_eq_some_iff {w : Nat} (hw : w ≤ 64) {a : Word} {x : BitVec w} :
    (if a.toNat < 2 ^ w then some (a.setWidth w) else none) = some x ↔ a = x.setWidth 64 := by
  have hwide : (x.setWidth 64).toNat = x.toNat := BitVec.toNat_setWidth_of_le hw
  constructor
  · intro h
    split at h
    · next hlt =>
      rw [← BitVec.toNat_inj, hwide, ← Option.some.inj h, BitVec.toNat_setWidth, Nat.mod_eq_of_lt hlt]
    · cases h
  · rintro rfl
    rw [if_pos (hwide ▸ x.isLt), BitVec.setWidth_setWidth_of_le _ hw, BitVec.setWidth_eq]

@[simp] theorem operand32_eq_some_iff {a : Word} {t : BitVec 32} : operand32 a = some t ↔ a = t.setWidth 64 :=
  narrow_eq_some_iff (by decide)

@[simp] theorem operandChar_eq_some_iff {a : Word} {c : CharCode} : operandChar a = some c ↔ a = c.setWidth 64 :=
  narrow_eq_some_iff (w := 8) (by decide)

/-- A payload is read as the characters whose codes it holds (rule R117). -/
@[simp] theorem operandChars_eq_some_iff {as : List Word} {cs : List CharCode} :
    operandChars as = some cs ↔ as = cs.map fun c => c.setWidth 64 := by
  induction as generalizing cs with
  | nil => simp [operandChars, eq_comm]
  | cons a as ih =>
    constructor
    · intro h
      unfold operandChars at h
      split at h
      · next c cs' hc hcs =>
        rw [← Option.some.inj h, List.map_cons, ← operandChar_eq_some_iff.mp hc, ← ih.mp hcs]
      · cases h
    · intro h
      obtain ⟨c, cs', rfl, hc, hcs⟩ := List.map_eq_cons_iff.mp h.symm
      simp [operandChars, operandChar_eq_some_iff.mpr hc.symm, ih.mpr hcs.symm]

@[simp] theorem unusedField_iff {a : Word} : unusedField a = true ↔ a = 0 := beq_iff_eq

@[simp] theorem unusedPayload_iff {p : List Word} : unusedPayload p = true ↔ p = [] := List.isEmpty_iff

/-! ### The two fields of a header and of an event -/

/-- A word is its upper and its lower bits side by side. -/
theorem extract_append_extract {m n : Nat} (x : BitVec (m + n)) : x.extractLsb' n m ++ x.extractLsb' 0 n = x :=
  (BitVec.extractLsb'_append_extractLsb'_eq_extractLsb' n.zero_add.symm).trans BitVec.extractLsb'_eq_self

/-- The codes of rule R114 are all listed and all different. -/
theorem opcodeOf_eq_some_iff {b : BitVec 8} {op : Opcode} : opcodeOf b = some op ↔ b = op.code := by
  constructor
  · intro h
    have hcode := List.find?_some h
    exact (beq_iff_eq.mp hcode).symm
  · rintro rfl
    cases op <;> rfl

/-- A reserved opcode is the code of no operation (rule R116). -/
theorem opcodeOf_eq_none_iff {b : BitVec 8} : opcodeOf b = none ↔ ∀ op : Opcode, b ≠ op.code := by
  simp [Option.eq_none_iff_forall_ne_some, opcodeOf_eq_some_iff]

/-- The selectors of 10_state.md rule R44 are all listed and all different. -/
theorem cfgRegOf_eq_some_iff {sel : BitVec 8} {reg : CfgReg} : cfgRegOf sel = some reg ↔ sel = reg.sel := by
  constructor
  · intro h
    have hsel := List.find?_some h
    exact (beq_iff_eq.mp hsel).symm
  · rintro rfl
    cases reg <;> rfl

/-- The header is its two fields side by side (rule R111). -/
theorem hdr_eq_header_iff {op : Opcode} {sel : BitVec 8} {c : Command} :
    c.hdr = header op sel ↔ c.op = op.code ∧ c.sel = sel := by
  constructor
  · intro h
    rw [Command.op, Command.sel, h]
    exact ⟨BitVec.extractLsb'_append_eq_left (a := op.code) (b := sel),
      BitVec.extractLsb'_append_eq_right (a := op.code) (b := sel)⟩
  · rintro ⟨hop, rfl⟩
    rw [header, ← hop]
    exact (extract_append_extract (m := 8) (n := 8) c.hdr).symm

/-- A command is one with given parts when its opcode, its selector and its other fields are these. -/
theorem cmd_eq_iff {op : Opcode} {sel : BitVec 8} {a0 a1 : Word} {payload : List Word} {c : Command} :
    PortWord.cmd ⟨header op sel, a0, a1, payload⟩ = .cmd c ↔
      c.op = op.code ∧ c.sel = sel ∧ c.a0 = a0 ∧ c.a1 = a1 ∧ c.payload = payload := by
  rw [PortWord.cmd.injEq, ← and_assoc, ← hdr_eq_header_iff]
  cases c
  simp [eq_comm]

@[simp] theorem levelOf_bit (level : Level) : levelOf level.bit = level := by cases level <;> rfl

@[simp] theorem bit_levelOf (b : BitVec 1) : (levelOf b).bit = b := by
  revert b
  decide

/-! ### The decoder's checks and the operand forms -/

@[simp] theorem require_eq_ok_iff {ok : Bool} {why : Illegal} {next : Except Illegal Instr} {i : Instr} :
    require ok why next = .ok i ↔ ok = true ∧ next = .ok i := by
  cases ok <;> simp [require]

@[simp] theorem noSelector_eq_ok_iff {c : Command} {next : Except Illegal Instr} {i : Instr} :
    noSelector c next = .ok i ↔ c.sel = 0 ∧ next = .ok i := by
  simp [noSelector]

section
variable {c : Command} {i : Instr}

/-- With no operand the command is the plain one of its opcode (rules R112, R115). -/
theorem noOperands_eq_ok_iff {op : Opcode} {j : Instr} (hop : c.op = op.code) :
    noOperands c j = .ok i ↔ j = i ∧ plainCommand op 0 = .cmd c := by
  simp only [noOperands, noSelector_eq_ok_iff, require_eq_ok_iff, Bool.and_eq_true, unusedField_iff, unusedPayload_iff,
    Except.ok.injEq, plainCommand, cmd_eq_iff]
  tauto

/-- CLK.START and CLK.CONV: the tick is the whole of `a0` (rules R112, R114). -/
theorem tickOperand_eq_ok_iff {op : Opcode} {mk : Tick → Instr} (hop : c.op = op.code) :
    tickOperand c mk = .ok i ↔ ∃ t, mk t = i ∧ PortWord.cmd ⟨header op 0, t.setWidth 64, 0, []⟩ = .cmd c := by
  simp only [tickOperand, cmd_eq_iff, hop, true_and, noSelector_eq_ok_iff, require_eq_ok_iff, Bool.and_eq_true,
    unusedField_iff, unusedPayload_iff]
  constructor
  · rintro ⟨hsel, ⟨ha1, hp⟩, h⟩
    split at h
    · next t ht => exact ⟨t, Except.ok.inj h, hsel, operand32_eq_some_iff.mp ht, ha1, hp⟩
    · cases h
  · rintro ⟨t, rfl, hsel, ha0, ha1, hp⟩
    simp [operand32_eq_some_iff.mpr ha0, hsel, ha1, hp]

/-- CFG.WR: a write that rules R115 and R117 allow. -/
theorem cfgWrOperands_eq_ok_iff (hop : c.op = Opcode.cfgWr.code) :
    cfgWrOperands c = .ok i ↔
      ∃ reg value, .cfgWr reg value = i ∧ writeLegal reg value = true ∧ encode (.cfgWr reg value) = .cmd c := by
  simp only [cfgWrOperands, encode, cmd_eq_iff, hop, true_and, writeLegal, Bool.and_eq_true]
  constructor
  · intro h
    split at h
    · cases h
    · next reg hreg =>
      simp only [require_eq_ok_iff, Bool.and_eq_true, unusedField_iff, unusedPayload_iff, Except.ok.injEq] at h
      obtain ⟨hw, ⟨ha1, hp⟩, hfits, hi⟩ := h
      exact ⟨reg, c.a0, hi, ⟨hw, hfits⟩, cfgRegOf_eq_some_iff.mp hreg, rfl, ha1, hp⟩
  · rintro ⟨reg, value, rfl, ⟨hw, hfits⟩, hsel, rfl, ha1, hp⟩
    simp [cfgRegOf_eq_some_iff.mpr hsel, hw, hfits, ha1, hp]

/-- CFG.RD: a register of 10_state.md rule R44 (rule R115). -/
theorem cfgRdOperands_eq_ok_iff (hop : c.op = Opcode.cfgRd.code) :
    cfgRdOperands c = .ok i ↔ ∃ reg, .cfgRd reg = i ∧ encode (.cfgRd reg) = .cmd c := by
  simp only [cfgRdOperands, encode, plainCommand, cmd_eq_iff, hop, true_and]
  constructor
  · intro h
    split at h
    · cases h
    · next reg hreg =>
      simp only [require_eq_ok_iff, Bool.and_eq_true, unusedField_iff, unusedPayload_iff, Except.ok.injEq] at h
      obtain ⟨⟨⟨ha0, ha1⟩, hp⟩, hi⟩ := h
      exact ⟨reg, hi, cfgRegOf_eq_some_iff.mp hreg, ha0, ha1, hp⟩
  · rintro ⟨reg, rfl, hsel, ha0, ha1, hp⟩
    simp [cfgRegOf_eq_some_iff.mpr hsel, ha0, ha1, hp]

/-- DEC.SUBMIT: the payload is the durations, as many as rule R117 allows. -/
theorem submitOperands_eq_ok_iff {p : Params} (hop : c.op = Opcode.decSubmit.code) :
    submitOperands p c = .ok i ↔
      ∃ t0 seq, .decSubmit t0 seq = i ∧ submitLegal p seq = true ∧ encode (.decSubmit t0 seq) = .cmd c := by
  simp only [submitOperands, encode, cmd_eq_iff, hop, true_and, noSelector_eq_ok_iff, require_eq_ok_iff,
    unusedField_iff, Except.ok.injEq]
  constructor
  · rintro ⟨hsel, ha1, hlegal, hi⟩
    exact ⟨c.a0, c.payload, hi, hlegal, hsel, rfl, ha1, rfl⟩
  · rintro ⟨t0, seq, rfl, hlegal, hsel, rfl, ha1, rfl⟩
    exact ⟨hsel, ha1, hlegal, rfl⟩

/-- ENC.ENCODE: the payload is the characters' codes, as many as rule R117 allows. -/
theorem encodeOperands_eq_ok_iff {p : Params} (hop : c.op = Opcode.encEncode.code) :
    encodeOperands p c = .ok i ↔
      ∃ chars, .encEncode chars = i ∧ encodeLegal p chars = true ∧ encode (.encEncode chars) = .cmd c := by
  simp only [encodeOperands, encode, cmd_eq_iff, hop, true_and, noSelector_eq_ok_iff, require_eq_ok_iff,
    Bool.and_eq_true, unusedField_iff]
  constructor
  · rintro ⟨hsel, ⟨ha0, ha1⟩, h⟩
    split at h
    · next chars hchars =>
      obtain ⟨hlegal, hi⟩ := require_eq_ok_iff.mp h
      exact ⟨chars, Except.ok.inj hi, hlegal, hsel, ha0, ha1, operandChars_eq_some_iff.mp hchars⟩
    · cases h
  · rintro ⟨chars, rfl, hlegal, hsel, ha0, ha1, hp⟩
    simp [operandChars_eq_some_iff.mpr hp, hlegal, hsel, ha0, ha1]

end

/-! ### The decoder -/

/-- A command is read by its opcode's operands (rule R118). -/
theorem decodeCommand_of_op {p : Params} {c : Command} {op : Opcode} (hop : c.op = op.code) :
    decodeCommand p c = decodeOperands p op c := by
  simp [decodeCommand, opcodeOf_eq_some_iff.mpr hop]

section
variable {p : Params} {op : Opcode} {sel : BitVec 8} {a0 a1 : Word} {payload : List Word}

theorem op_of_header : (Command.mk (header op sel) a0 a1 payload).op = op.code := (hdr_eq_header_iff.mp rfl).1

/-- A command built with an opcode's header is read by that opcode's operands. -/
theorem decode_header : decode p (.cmd ⟨header op sel, a0, a1, payload⟩) =
    decodeOperands p op ⟨header op sel, a0, a1, payload⟩ :=
  decodeCommand_of_op op_of_header

end

/-- A command with a reserved opcode is rejected whatever its other fields are (rules R116, R118). -/
theorem decodeCommand_of_reserved {p : Params} {c : Command} (h : ∀ op : Opcode, c.op ≠ op.code) :
    decodeCommand p c = .error (.reservedOpcode c.op) := by
  simp [decodeCommand, opcodeOf_eq_none_iff.mpr h]

theorem decodeEvent_append (level : Level) (tick : Tick) : decodeEvent (level.bit ++ tick) = .edge level tick := by
  simp only [decodeEvent, Instr.edge.injEq]
  exact ⟨(congrArg levelOf BitVec.extractLsb'_append_eq_left).trans (levelOf_bit level),
    BitVec.extractLsb'_append_eq_right⟩

/-- No bit of an event is unused (rule R113). -/
theorem encode_decodeEvent (w : BitVec 33) : encode (decodeEvent w) = .event w := by
  simp only [decodeEvent, encode, bit_levelOf, PortWord.event.injEq]
  exact extract_append_extract (m := 1) (n := 32) w

end Sys2Proof.Machine
end

section
/-! PROOFS of O8 and O9. The operand form of each opcode reads exactly the encodings of its operations, which gives both
directions of the round trip between the port's words and the operations (30_encoding.md rules R111 to R118). -/

namespace Sys2Proof.Machine

open Sys2Proof

/-- What an opcode's operands are read as is well formed, and the command is its encoding: nothing of the command is
ignored (rules R112, R115, R117). -/
theorem wellFormed_and_encode_of_decodeOperands {p : Params} {op : Opcode} {c : Command} {i : Instr}
    (hop : c.op = op.code) (h : decodeOperands p op c = .ok i) : WellFormed p i ∧ encode i = .cmd c := by
  cases op with
  | clkNow | clkStop | capStart | capStop | decShutdown | resPop =>
    obtain ⟨rfl, hc⟩ := (noOperands_eq_ok_iff hop).mp h
    exact ⟨rfl, hc⟩
  | clkStart | clkConv =>
    obtain ⟨t, rfl, hc⟩ := (tickOperand_eq_ok_iff hop).mp h
    exact ⟨rfl, hc⟩
  | cfgWr =>
    obtain ⟨reg, value, rfl, hlegal, hc⟩ := (cfgWrOperands_eq_ok_iff hop).mp h
    exact ⟨hlegal, hc⟩
  | cfgRd =>
    obtain ⟨reg, rfl, hc⟩ := (cfgRdOperands_eq_ok_iff hop).mp h
    exact ⟨rfl, hc⟩
  | decSubmit =>
    obtain ⟨t0, seq, rfl, hlegal, hc⟩ := (submitOperands_eq_ok_iff hop).mp h
    exact ⟨hlegal, hc⟩
  | encEncode =>
    obtain ⟨chars, rfl, hlegal, hc⟩ := (encodeOperands_eq_ok_iff hop).mp h
    exact ⟨hlegal, hc⟩

/-- Settles O9: an event keeps its 33 bits, and a command that decodes is read by the operands of its opcode. -/
theorem everyDecodableWordIsAnEncoding : Obligations.EveryDecodableWordIsAnEncoding := by
  intro p w i h
  cases w with
  | event w =>
    obtain rfl := Except.ok.inj h
    exact ⟨rfl, encode_decodeEvent w⟩
  | cmd c =>
    change decodeCommand p c = .ok i at h
    by_cases hop : ∃ op : Opcode, c.op = op.code
    · obtain ⟨op, hop⟩ := hop
      exact wellFormed_and_encode_of_decodeOperands hop ((decodeCommand_of_op hop).symm.trans h)
    · rw [decodeCommand_of_reserved (not_exists.mp hop)] at h
      cases h

/-- Settles O8: each operation by the operand form of its opcode, whose checks are its well-formedness. -/
theorem decodeOfEncodeIsTheOperation : Obligations.DecodeOfEncodeIsTheOperation := by
  intro p i hwf
  cases i with
  | clkNow | clkStop | capStart | capStop | decShutdown | resPop =>
    exact decode_header.trans ((noOperands_eq_ok_iff op_of_header).mpr ⟨rfl, rfl⟩)
  | clkStart t | clkConv t => exact decode_header.trans ((tickOperand_eq_ok_iff op_of_header).mpr ⟨t, rfl, rfl⟩)
  | cfgWr reg value =>
    exact decode_header.trans ((cfgWrOperands_eq_ok_iff op_of_header).mpr ⟨reg, value, rfl, hwf, rfl⟩)
  | cfgRd reg => exact decode_header.trans ((cfgRdOperands_eq_ok_iff op_of_header).mpr ⟨reg, rfl, rfl⟩)
  | decSubmit t0 seq =>
    exact decode_header.trans ((submitOperands_eq_ok_iff op_of_header).mpr ⟨t0, seq, rfl, hwf, rfl⟩)
  | encEncode chars =>
    exact decode_header.trans ((encodeOperands_eq_ok_iff op_of_header).mpr ⟨chars, rfl, hwf, rfl⟩)
  | edge level tick => exact congrArg Except.ok (decodeEvent_append level tick)

end Sys2Proof.Machine
end

section
/-! LAWS. What a port does with a word it rejects or does not accept (30_encoding.md rules R110, R116 to R118). -/

namespace Sys2Proof.Machine

open Sys2Proof Sys2Proof.Claims

theorem respondError_illegal (s : State) : respondError .illegal s = illegal s := rfl

theorem portStep_eq_illegal {p : PortWord} {s : State} {why : Illegal} (hacc : accepts p s = true)
    (hdec : decode s.params p = .error why) : portStep p s = .next (illegal s) := by
  simp [portStep, hacc, hdec, respondError_illegal]

theorem portStep_of_not_accepts {p : PortWord} {s : State} (hacc : accepts p s = false) : portStep p s = .next s := by
  simp [portStep, hacc]

/-- The header's upper byte as a number (rule R111). -/
theorem op_toNat (c : Command) : c.op.toNat = opField c := by
  have := c.hdr.isLt
  simp only [Command.op, BitVec.extractLsb'_toNat, Nat.shiftRight_eq_div_pow, opField]
  omega

end Sys2Proof.Machine
end

section
/-! PROOFS of O5, O4, O6, O7, O10 and O35. What the ports accept and reject (30_encoding.md rules R110 to R117), and the
tables of its rules R119 and R121. -/

namespace Sys2Proof.Machine

open Sys2Proof Sys2Proof.Claims

/-- Settles O5: the ranges of rule R116 hold no code of rule R114's table. -/
theorem reservedOpcodesAnswerIllegal : Obligations.ReservedOpcodesAnswerIllegal := by
  intro c s hjoin hrange
  have hreserved : ∀ op : Opcode, c.op ≠ op.code := by
    intro op hop
    rw [← op_toNat, hop] at hrange
    revert hrange
    cases op <;> decide
  exact portStep_eq_illegal (accepts_iff.mpr (.inl hjoin)) (decodeCommand_of_reserved hreserved)

/-- Settles O4: the port is not ready for a command, and is for an event, which always decodes. -/
theorem noCommandIsAcceptedWhileAJoinIsPending : Obligations.NoCommandIsAcceptedWhileAJoinIsPending :=
  ⟨fun s c hjoin => portStep_of_not_accepts (by simp [accepts, hjoin]),
    fun _ w => portStep_eq_exec (accepts_iff.mpr (.inr ⟨w, rfl⟩)) rfl⟩

theorem levelOf_eq_getLsbD (b : BitVec 1) : levelOf b = if b.getLsbD 0 then .high else .low := by
  revert b
  decide

/-- Settles O6: the two extracted fields are the level's bit and the low 32 bits. -/
theorem everyEdgeWordIsAnEdgeEvent : Obligations.EveryEdgeWordIsAnEdgeEvent := by
  intro p w
  have hlevel : levelOf (w.extractLsb' 32 1) = if w.getLsbD 32 then .high else .low := by
    rw [levelOf_eq_getLsbD]
    simp
  have htick : w.extractLsb' 0 32 = w.setWidth 32 := (BitVec.setWidth_eq_extractLsb' (by decide)).symm
  rw [decode, decodeEvent, hlevel, htick]

theorem decode_of_encode_eq {p : Params} {i : Instr} {w : PortWord} (hwf : WellFormed p i) (hw : encode i = w) :
    decode p w = .ok i :=
  hw ▸ decodeOfEncodeIsTheOperation p i hwf

/-- Settles O7: each word is the encoding of its operation, which the decoder reads back (O8). -/
theorem specWordsDecodeToTheirOperations : Obligations.SpecWordsDecodeToTheirOperations :=
  ⟨decode_of_encode_eq rfl rfl, decode_of_encode_eq rfl rfl, decode_of_encode_eq rfl rfl, decode_of_encode_eq rfl rfl,
    decode_of_encode_eq rfl rfl, decode_of_encode_eq rfl rfl⟩

/-- Settles O10: the three tables, by evaluation. -/
theorem statusAndErrorCodesAreTheTables : Obligations.StatusAndErrorCodesAreTheTables := ⟨rfl, rfl, rfl⟩

/-- Settles O35: the checks of rules R115 and R117 come first in each meaning that has one. -/
theorem illFormedOperationsAnswerIllegal : Obligations.IllFormedOperationsAnswerIllegal := by
  intro i s hwf
  cases i with
  | cfgWr reg value =>
    rcases execCfgWr_cases reg value s with ⟨hlegal, _⟩ | ⟨_, h⟩
    · exact absurd hlegal hwf
    · exact h
  | decSubmit t0 seq =>
    rcases execDecSubmit_cases t0 seq s with ⟨hlegal, _⟩ | ⟨_, h⟩
    · exact absurd hlegal hwf
    · exact h
  | encEncode chars =>
    rcases execEncEncode_cases chars s with ⟨_, hlegal, _⟩ | ⟨_, hlegal, _⟩ | ⟨_, h⟩
    · exact absurd hlegal hwf
    · exact absurd hlegal hwf
    · exact h
  | clkStart | clkNow | clkConv | clkStop | capStart | capStop | cfgRd | decShutdown | resPop | edge =>
    exact absurd rfl hwf

end Sys2Proof.Machine
end

section
/-! LAWS and PROOF of O47. The classifier gives each symbol on its own range, because ordered ranges are disjoint
(30_encoding.md rule R100). -/

namespace Sys2Proof.Machine

open Sys2Proof

/-- The ranges of the symbols: none is empty and each ends before the next begins (rules R12, R100). -/
structure OrderedBounds (b : Bounds) : Prop where
  short : b.shortMin ≤ b.shortMax
  shortLong : b.shortMax < b.longMin
  long : b.longMin ≤ b.longMax
  longExtraLong : b.longMax < b.extraLongMin
  extraLong : b.extraLongMin ≤ b.extraLongMax
  extraLongMegaLong : b.extraLongMax < b.megaLongMin

theorem config_orderedBounds : OrderedBounds Config.bounds := by constructor <;> decide

/-- Each encoder duration lies in its range, so no range is empty (rule R13). -/
theorem orderedBounds_of_ok {l : Literals} (h : Literals.Ok l) : OrderedBounds l.bounds where
  short := h.shortInRange.1.trans h.shortInRange.2
  shortLong := h.boundsOrdered.1
  long := h.longInRange.1.trans h.longInRange.2
  longExtraLong := h.boundsOrdered.2.1
  extraLong := h.extraLongInRange.1.trans h.extraLongInRange.2
  extraLongMegaLong := h.boundsOrdered.2.2

/-- The range of a symbol (rule R12). -/
def inRange (b : Bounds) (n : Nat) : Symbol → Prop
  | .short => b.shortMin ≤ n ∧ n ≤ b.shortMax
  | .long => b.longMin ≤ n ∧ n ≤ b.longMax
  | .extraLong => b.extraLongMin ≤ n ∧ n ≤ b.extraLongMax
  | .megaLong => b.megaLongMin ≤ n ∧ n ≤ b.megaLongMax

/-- The ranges are disjoint, so their order in the classifier does not matter (rule R100). -/
theorem classify_eq_some_iff {b : Bounds} (hb : OrderedBounds b) {d : Duration} {y : Symbol} :
    classify b d = some y ↔ inRange b d.toNat y := by
  obtain ⟨hshort, hshortLong, hlong, hlongExtra, hextra, hextraMega⟩ := hb
  simp only [classify]
  constructor
  · intro h
    split_ifs at h with hs hl hx hm <;> obtain rfl := Option.some.inj h
    exacts [hs, hl, hx, hm]
  · intro h
    cases y with
    | short => exact if_pos h
    | long =>
      obtain ⟨_, _⟩ := h
      rw [if_neg (by omega), if_pos (by omega)]
    | extraLong =>
      obtain ⟨_, _⟩ := h
      rw [if_neg (by omega), if_neg (by omega), if_pos (by omega)]
    | megaLong =>
      obtain ⟨_, _⟩ := h
      rw [if_neg (by omega), if_neg (by omega), if_neg (by omega), if_pos (by omega)]

theorem classify_eq_none_iff {b : Bounds} (hb : OrderedBounds b) {d : Duration} :
    classify b d = none ↔ ∀ y, ¬inRange b d.toNat y := by
  simp [Option.eq_none_iff_forall_ne_some, classify_eq_some_iff hb]

/-- Settles O47: the bounds of literals in their relations are ordered, and so are the spec's. MegaLong's upper bound is
the largest duration. -/
theorem classificationIsTheFourRanges : Obligations.ClassificationIsTheFourRanges := by
  refine ⟨fun l d hl => ?_, fun d => ?_⟩
  · have hb := orderedBounds_of_ok hl
    exact ⟨classify_eq_some_iff hb, classify_eq_some_iff hb, classify_eq_some_iff hb, classify_eq_some_iff hb⟩
  · have h {y : Symbol} := classify_eq_some_iff config_orderedBounds (d := d) (y := y)
    have hmega : classify Config.bounds d = some .megaLong ↔ 5000 ≤ d.toNat :=
      h.trans (and_iff_left (Nat.le_of_lt_succ d.isLt))
    have hlt := d.isLt
    refine ⟨h, h, h, hmega,
      (classify_eq_none_iff config_orderedBounds).trans ⟨fun hnone => ?_, fun hgap y => ?_⟩⟩
    · have hs := hnone .short
      have hl := hnone .long
      have hx := hnone .extraLong
      have hm := hnone .megaLong
      simp only [inRange, Config.bounds] at hs hl hx hm
      omega
    · cases y <;> simp only [inRange, Config.bounds] <;> omega

end Sys2Proof.Machine
end

section
/-! LAWS. What the bench does with a port word, and with RES.POP taken again and again (30_encoding.md rules R124, R125,
43_decoder.md rule R252). -/

namespace Sys2Proof.Machine

open Sys2Proof Sys2Proof.Claims

/-- The machine as a bench lets it take a step: the tick input reads the bench's tick (log 3). -/
def Bench.atTick (b : Bench) : State := { b.machine with env := { b.machine.env with tickNow := b.tick } }

/-- The machine with a bench's action as its next stimulus. -/
def Bench.offer (a : Action) (b : Bench) : State :=
  { b.machine with env := { b.machine.env with inputs := { tickNow := b.tick, action := a } :: b.machine.env.inputs } }

/-- Taking the stimulus a bench lists leaves the rest of the environment as it was. -/
theorem takeStimulus_offer (a : Action) (b : Bench) : takeStimulus (b.offer a) = b.atTick := rfl

theorem benchAct_port {p : PortWord} {b : Bench} {s : State} (h : portStep p b.atTick = .next s) :
    benchAct (.port p) b = { b with machine := s } := by
  have hstep : step (b.offer (.port p)) = .next s := by rw [step_eq_of_port rfl, takeStimulus_offer, h]
  unfold Bench.offer at hstep
  rw [benchAct, hstep]

theorem benchJoin_of_not_pending {b : Bench} (h : b.machine.chan.joinPending = false) : benchJoin b = b := by
  simp [benchJoin, enabled, h]

/-- One RES.POP on the bench. -/
def benchPop (b : Bench) : Bench := benchJoin (benchAct (.port (encode .resPop)) b)

/-- A line of pops runs them one after the other. -/
theorem benchLine_pops (n : Nat) (b : Bench) :
    benchLine (.words (List.replicate n (encode .resPop))) b = [benchPop^[n] b] := by
  induction n generalizing b with
  | zero => rfl
  | succ n ih => exact ih (benchPop b)

/-- RES.DRAIN is one pop for each record and one more (rule R124). -/
theorem benchLine_drain (b : Bench) :
    benchLine .drain b = benchLine (.words (List.replicate (b.machine.chan.res.length + 1) (encode .resPop))) b := rfl

/-- The bench after pops that left `rest` in the result channel, the last one answered by `answer`. -/
def afterPops (rest : List ResultRec) (answer : Response) (b : Bench) : Bench :=
  { b with machine := { b.atTick with chan := { b.machine.chan with res := rest, response := some answer } } }

/-- The answer of RES.POP to the record it takes (rule R120, 43_decoder.md rule R252). -/
def popAnswer (r : ResultRec) : Response := ⟨.ok, (recordCode r).setWidth 64, (recordDigits r).map digitWord⟩

section
variable {b : Bench} (hjoin : b.machine.chan.joinPending = false)
include hjoin

/-- With no join pending a pop is RES.POP's meaning, and no join completion follows it. -/
theorem benchPop_of_exec {s : State} (h : execResPop b.atTick = .next s) (hs : s.chan.joinPending = false) :
    benchPop b = { b with machine := s } := by
  have hport : portStep (encode .resPop) b.atTick = .next s :=
    (portStep_eq_exec (s := b.atTick) (accepts_iff.mpr (.inl hjoin)) (decodeOfEncodeIsTheOperation _ _ rfl)).trans h
  rw [benchPop, benchAct_port hport, benchJoin_of_not_pending hs]

theorem benchPop_of_nil (h : b.machine.chan.res = []) : benchPop b = afterPops [] ⟨.empty, 0, []⟩ b := by
  rcases execResPop_cases b.atTick with ⟨_, hpop⟩ | ⟨_, _, hres, _⟩
  · rw [benchPop_of_exec hjoin hpop hjoin, afterPops, ← h]
    rfl
  · exact absurd (h.symm.trans hres) (List.cons_ne_nil _ _).symm

theorem benchPop_of_cons {r : ResultRec} {rest : List ResultRec} (h : b.machine.chan.res = r :: rest) :
    benchPop b = afterPops rest (popAnswer r) b := by
  rcases execResPop_cases b.atTick with ⟨hres, _⟩ | ⟨_, _, hres, hpop⟩
  · exact absurd (h.symm.trans hres) (List.cons_ne_nil _ _)
  · obtain ⟨rfl, rfl⟩ := List.cons.inj (h.symm.trans hres)
    exact benchPop_of_exec hjoin hpop hjoin

/-- Each pop takes the oldest record that is left. -/
theorem benchPop_iterate {k : Nat} (hk : k < b.machine.chan.res.length) :
    benchPop^[k + 1] b = afterPops (b.machine.chan.res.drop (k + 1)) (popAnswer b.machine.chan.res[k]) b := by
  induction k with
  | zero => exact benchPop_of_cons hjoin (List.drop_eq_getElem_cons hk)
  | succ k ih =>
    rw [Function.iterate_succ_apply', ih (by omega)]
    exact benchPop_of_cons (b := afterPops _ _ b) hjoin (List.drop_eq_getElem_cons hk)

/-- One pop more than there are records finds none. -/
theorem benchPop_iterate_length :
    benchPop^[b.machine.chan.res.length + 1] b = afterPops [] ⟨.empty, 0, []⟩ b := by
  rw [Function.iterate_succ_apply']
  cases hlen : b.machine.chan.res.length with
  | zero => exact benchPop_of_nil hjoin (List.length_eq_zero_iff.mp hlen)
  | succ k =>
    rw [benchPop_iterate hjoin (by omega)]
    exact benchPop_of_nil hjoin (List.drop_eq_nil_of_le hlen.le)

end

end Sys2Proof.Machine
end

section
/-! PROOF of O11. The pseudo-instructions' words and what a drain leaves (30_encoding.md rule R124). -/

namespace Sys2Proof.Machine

open Sys2Proof Sys2Proof.Claims

/-- CAP.CONFIG's words are the encodings of the three writes (rule R124). -/
theorem configWords_eq_encode (s e m : Word) :
    configWords s e m = [encode (.cfgWr .startDur s), encode (.cfgWr .endDur e), encode (.cfgWr .minLen m)] := rfl

/-- Where MIN_LEN's value fits its register, the words decode to the writes. -/
theorem decode_configWords {p : Params} (s e : Word) {m : Word} (hm : regFits .minLen m = true) :
    (configWords s e m).map (decode p) =
      [.ok (.cfgWr .startDur s), .ok (.cfgWr .endDur e), .ok (.cfgWr .minLen m)] := by
  have hs := decodeOfEncodeIsTheOperation p (.cfgWr .startDur s) rfl
  have he := decodeOfEncodeIsTheOperation p (.cfgWr .endDur e) rfl
  have hm := decodeOfEncodeIsTheOperation p (.cfgWr .minLen m) hm
  rw [configWords_eq_encode, List.map_cons, List.map_cons, List.map_cons, List.map_nil, hs, he, hm]

theorem field64_of_lt {n : Nat} (h : n < 2 ^ 64) : field64 n = some (BitVec.ofNat 64 n) := if_pos h

/-- Settles O11: the expansions are lists of encodings, and a drain is one pop for each record and one more. -/
theorem pseudoInstructionsExpandToTheirWrites : Obligations.PseudoInstructionsExpandToTheirWrites := by
  refine ⟨fun s e m => ⟨configWords_eq_encode s e m, rfl⟩, fun s e m hs he hm => ?_, by decide,
    decode_configWords 200 5000 rfl, by decide, fun b hjoin => ⟨benchLine_drain b, ?_, fun k hk => ?_⟩⟩
  · simp [assembleOperands, field64_of_lt hs, field64_of_lt he, field64_of_lt hm]
  · rw [benchLine_drain, benchLine_pops, benchPop_iterate_length hjoin]
    rfl
  · refine ⟨(afterPops (b.machine.chan.res.drop (k + 1)) (popAnswer b.machine.chan.res[k]) b).machine, _, _, ?_,
      rfl, rfl⟩
    rw [benchLine_pops, benchPop_iterate hjoin hk]
    rfl

end Sys2Proof.Machine
end

section
/-! LAWS. Commands with no operand and with one tick: the port runs the operation when the fields are as its rule says, and
answers ILLEGAL otherwise (30_encoding.md rules R112, R114, R115, R117). -/

namespace Sys2Proof.Machine

open Sys2Proof Sys2Proof.Claims

/-- A meaning with two cases as one equation. -/
theorem eq_next_ite {o : Host.Outcome State Fault Refusal} {b : Bool} {t u : State}
    (h : (b = true ∧ o = .next t) ∨ (b = false ∧ o = .next u)) : o = .next (if b then t else u) := by
  rcases h with ⟨rfl, ho⟩ | ⟨rfl, ho⟩ <;> exact ho

/-- The header's lower byte as a number (rule R111). -/
theorem sel_toNat (c : Command) : c.sel.toNat = selField c := by
  simp [Command.sel, BitVec.extractLsb'_toNat, selField]

theorem sel_eq_zero_iff {c : Command} : c.sel = 0 ↔ selField c = 0 := by
  rw [← sel_toNat, ← BitVec.toNat_inj]
  rfl

theorem op_eq_code {c : Command} {op : Opcode} (h : opField c = op.code.toNat) : c.op = op.code :=
  BitVec.eq_of_toNat_eq ((op_toNat c).trans h)

/-- A narrow tick operand is the low half of its field, and the field has no upper half (rule R112). -/
theorem eq_setWidth_tick_iff {a : Word} {t : Tick} : a = t.setWidth 64 ↔ a.toNat < 2 ^ 32 ∧ a.setWidth 32 = t := by
  rw [← operand32_eq_some_iff, operand32]
  split
  · next hlt => simp only [Option.some.injEq, hlt, true_and]
  · next hwide => simp only [reduceCtorEq, hwide, false_and]

section
variable {c : Command} {s : State}

/-- A port that takes a word in one form alone runs that form's operation and answers ILLEGAL to every other word. -/
theorem portStep_eq_ite {p : PortWord} {i : Instr} {cond : Prop} [Decidable cond] (hacc : accepts p s = true)
    (hdec : ∀ j, decode s.params p = .ok j ↔ i = j ∧ cond) :
    portStep p s = if cond then exec i s else .next (illegal s) := by
  split
  · next hcond => exact portStep_eq_exec hacc ((hdec i).mpr ⟨rfl, hcond⟩)
  · next hcond =>
    cases h : decode s.params p with
    | ok j => exact absurd ((hdec j).mp h).2 hcond
    | error why => exact portStep_eq_illegal hacc h

/-- The port and an opcode without operands (rules R112, R115). -/
theorem portStep_noOperands {op : Opcode} {i : Instr} (hread : ∀ p c, decodeOperands p op c = noOperands c i)
    (hjoin : s.chan.joinPending = false) (hop : opField c = op.code.toNat) :
    portStep (.cmd c) s = if noOperand c then exec i s else .next (illegal s) := by
  have hcode := op_eq_code hop
  refine portStep_eq_ite (accepts_iff.mpr (.inl hjoin)) fun j => ?_
  rw [decode, decodeCommand_of_op hcode, hread, noOperands_eq_ok_iff hcode, plainCommand, cmd_eq_iff, sel_eq_zero_iff]
  simp only [hcode, true_and]

/-- The port and an opcode whose one operand is a tick (rules R112, R114). -/
theorem portStep_tickOperand {op : Opcode} {mk : Tick → Instr} (hread : ∀ p c, decodeOperands p op c = tickOperand c mk)
    (hjoin : s.chan.joinPending = false) (hop : opField c = op.code.toNat) :
    portStep (.cmd c) s = if oneTick c then exec (mk (c.a0.setWidth 32)) s else .next (illegal s) := by
  have hcode := op_eq_code hop
  refine portStep_eq_ite (accepts_iff.mpr (.inl hjoin)) fun j => ?_
  rw [decode, decodeCommand_of_op hcode, hread, tickOperand_eq_ok_iff hcode]
  simp only [cmd_eq_iff, hcode, true_and, sel_eq_zero_iff, eq_setWidth_tick_iff]
  constructor
  · rintro ⟨t, hj, hsel, ⟨hlt, rfl⟩, ha1, hp⟩
    exact ⟨hj, hsel, hlt, ha1, hp⟩
  · rintro ⟨hj, hsel, hlt, ha1, hp⟩
    exact ⟨_, hj, hsel, ⟨hlt, rfl⟩, ha1, hp⟩

end

end Sys2Proof.Machine
end

section
/-! LAWS. The arithmetic of ticks and real times: the delta with `MAX_TICK` = 2^32 is the elapsed time modulo 2^32, and
what a sample and a conversion make of it (41_clock.md rules R150, R153, R155, R160). -/

namespace Sys2Proof.Machine

open Sys2Proof

theorem toNat_sub_tick (new old : Tick) :
    (new - old).toNat = if new.toNat < old.toNat then 2 ^ 32 - old.toNat + new.toNat else new.toNat - old.toNat := by
  have hnew := new.isLt
  have hold := old.isLt
  rw [BitVec.toNat_sub]
  split <;> omega

theorem wrapsub32_pow32 (new old : Tick) : wrapsub32 .pow32 new old = (new - old).toNat :=
  (toNat_sub_tick new old).symm

/-- The other reading of `MAX_TICK` loses a tick across a wrap (90_conflicts.md C1). -/
theorem wrapsub32_pow32MinusOne (new old : Tick) :
    wrapsub32 .pow32MinusOne new old = if new.toNat < old.toNat then (new - old).toNat - 1 else (new - old).toNat := by
  have hold := old.isLt
  simp only [toNat_sub_tick, wrapsub32, maxTickValue, Config.tickMod]
  split <;> omega

theorem wrapsub32_tickAt {before after : Nat} (h : before ≤ after) :
    wrapsub32 .pow32 (tickAt after) (tickAt before) = (after - before) % 2 ^ 32 := by
  rw [wrapsub32_pow32, BitVec.toNat_sub, tickAt, tickAt, BitVec.toNat_ofNat, BitVec.toNat_ofNat]
  omega

/-- Less than a period apart nothing is lost (rule R160). -/
theorem wrapsub32_tickAt_of_lt {before after : Nat} (h : before ≤ after) (hlt : after < before + 2 ^ 32) :
    wrapsub32 .pow32 (tickAt after) (tickAt before) = after - before := by
  rw [wrapsub32_tickAt h, Nat.mod_eq_of_lt (by omega)]

/-- Times from `a` to `b` and from `b` to `c`, each modulo 2^64, add up to the time from `a` to `c`. -/
theorem ofNat_elapsed_add {a b c : Nat} (hab : a ≤ b) (hbc : b ≤ c) :
    BitVec.ofNat 64 (b - a) + BitVec.ofNat 64 (c - b) = BitVec.ofNat 64 (c - a) := by
  rw [← BitVec.ofNat_add, add_comm, Nat.sub_add_sub_cancel hbc hab]

/-- While the total stays below 2^64 a sample adds its delta exactly (rule R153). -/
theorem clkNow_total_toNat {s : State} (t : Tick) (h : s.clk.total.toNat + 2 ^ 32 ≤ 2 ^ 64) :
    (clkNow t s).clk.total.toNat = s.clk.total.toNat + wrapsub32 s.params.maxTick t s.clk.lastTick := by
  have hdelta := wrapsub32_lt s.params.maxTick t s.clk.lastTick
  rw [clkNow_clk, BitVec.toNat_add, BitVec.toNat_ofNat]
  omega

section
variable {origin before after real recorded : Nat} {s : State}

/-- CLK.START makes the clock right (rule R151). -/
theorem clockRight_of_startedClock (hclk : s.clk = startedClock (tickAt real)) (hmax : s.params.maxTick = .pow32) :
    ClockRight real real s where
  started := by rw [hclk]; rfl
  ordered := Nat.le_refl real
  sampled := by rw [hclk]; rfl
  counted := by rw [hclk, Nat.sub_self]; rfl
  specMaxTick := hmax

/-- A sample under the single-wrap premise keeps the clock right (rules R153, R160). -/
theorem ClockRight.clkNow (h : ClockRight origin before s) (hwrap : singleWrap before after) :
    ClockRight origin after (clkNow (tickAt after) s) := by
  obtain ⟨hstarted, hordered, hlast, htotal, hmax⟩ := h
  obtain ⟨hle, hlt⟩ := hwrap
  refine ⟨hstarted, hordered.trans hle, rfl, ?_, hmax⟩
  rw [clkNow_clk, hmax, hlast, htotal, wrapsub32_tickAt_of_lt hle hlt, ofNat_elapsed_add hordered hle]

/-- Inside the window a conversion gives the true time (rules R155, R161). -/
theorem ClockRight.clkConv_eq (h : ClockRight origin real s) (horigin : origin ≤ recorded) (hle : recorded ≤ real)
    (hlt : real < recorded + 2 ^ 32) : clkConv (tickAt recorded) s = BitVec.ofNat 64 (recorded - origin) := by
  obtain ⟨_, _, hlast, htotal, hmax⟩ := h
  rw [clkConv, hmax, hlast, htotal, wrapsub32_tickAt_of_lt hle hlt, ← ofNat_elapsed_add horigin hle,
    BitVec.add_sub_cancel]

end

end Sys2Proof.Machine
end

section
/-! LAWS. What a step does to the time of a started clock: it keeps it or samples it, and nothing else (41_clock.md rules
R151 to R160). The operations and agents that neither start nor sample the clock are told by their footprints. -/

namespace Sys2Proof.Machine

open Sys2Proof Sys2Proof.Claims

/-- The clock tells the same time in both states: the flag, the last tick and the total agree. -/
structure SameTime (s t : State) : Prop where
  started : t.clk.started = s.clk.started
  lastTick : t.clk.lastTick = s.clk.lastTick
  total : t.clk.total = s.clk.total

section
variable {fs : List StateField} {s t u : State}

theorem SameTime.of_clk (h : t.clk = s.clk) : SameTime s t := ⟨by rw [h], by rw [h], by rw [h]⟩

theorem SameTime.trans (hst : SameTime s t) (htu : SameTime t u) : SameTime s u :=
  ⟨htu.started.trans hst.started, htu.lastTick.trans hst.lastTick, htu.total.trans hst.total⟩

theorem SameTime.of_writesOnly (h : WritesOnly fs s t) (hstarted : .started ∉ fs) (hlast : .lastTick ∉ fs)
    (htotal : .total ∉ fs) : SameTime s t :=
  ⟨h .started hstarted, h .lastTick hlast, h .total htotal⟩

theorem ClockRight.of_sameTime {origin real : Nat} (h : ClockRight origin real s) (hst : SameTime s t)
    (hparams : t.params = s.params) : ClockRight origin real t where
  started := hst.started.trans h.started
  ordered := h.ordered
  sampled := hst.lastTick.trans h.sampled
  counted := hst.total.trans h.counted
  specMaxTick := by rw [hparams, h.specMaxTick]

/-- On a started clock CLK.NOW and an edge sample, and no operation changes the time otherwise: CLK.START is refused. -/
theorem exec_time_cases {i : Instr} (hstarted : s.clk.started = true) (h : exec i s = .next t) :
    SameTime s t ∨ SameTime (sampleClock s) t := by
  cases i with
  | clkStart refTick =>
    rcases execClkStart_cases refTick s with ⟨_, ho⟩ | ⟨hstopped, _⟩
    · obtain rfl := Host.Outcome.next.inj (ho.symm.trans h)
      exact .inl (.of_clk rfl)
    · exact absurd (hstarted.symm.trans hstopped) (by decide)
  | clkNow =>
    rcases execClkNow_cases s with ⟨_, ho⟩ | ⟨hstopped, _⟩
    · obtain rfl := Host.Outcome.next.inj (ho.symm.trans h)
      exact .inr (.of_clk rfl)
    · exact absurd (hstarted.symm.trans hstopped) (by decide)
  | edge level tick =>
    rcases execEdge_cases level tick s with ⟨_, ho⟩ | ⟨_, ho⟩
    · obtain rfl := Host.Outcome.next.inj (ho.symm.trans h)
      obtain ⟨hclk, _⟩ := frameEdge_frame level (clkEdgeTime tick s) (sampleClock s)
      exact .inr (.of_clk hclk)
    · obtain rfl := Host.Outcome.next.inj (ho.symm.trans h)
      exact .inl (.of_clk rfl)
  | _ =>
    exact .inl (.of_writesOnly (exec_writesOnly h) (by simp [footprint]) (by simp [footprint]) (by simp [footprint]))

/-- Of the agents CLKR.TIMEOUT alone samples (rule R158). -/
theorem agentStep_time_cases (a : AgentStep) (s : State) :
    SameTime s (agentStep a s) ∨ SameTime (sampleClock s) (agentStep a s) := by
  cases a with
  | clkrTimeout =>
    rcases agentStep_cases .clkrTimeout s with ⟨_, h⟩ | ⟨_, h⟩ <;> rw [h]
    · rcases clkrTimeout_cases s with ⟨_, h⟩ | ⟨_, h⟩ <;> rw [perform, h]
      · exact .inl ⟨rfl, rfl, rfl⟩
      · exact .inr (.of_clk rfl)
    · exact .inl (.of_clk rfl)
  | _ => exact .inl (.of_writesOnly (agentStep_writesOnly _ s) (by decide) (by decide) (by decide))

/-- An agent's step is told by its enabling condition and its effect (20_memory.md rule R83, log 2). -/
theorem stepIs_of_perform {a : AgentStep} {cond : Bool} (hcond : enabled a s = cond) (hperform : perform a s = t) :
    stepIs a s cond t := by
  rw [stepIs, agentStep, hcond, hperform]

theorem sampleClock_takeStimulus_clk (s : State) :
    (sampleClock (takeStimulus s)).clk = (clkNow (nextStimulus s).tickNow s).clk := by simp

/-- A step other than reset keeps the time of a started clock or samples it at the tick the step reads. -/
theorem step_time_cases (hstarted : s.clk.started = true) (hreset : (nextStimulus s).action ≠ .reset)
    (h : step s = .next t) : SameTime s t ∨ SameTime (clkNow (nextStimulus s).tickNow s) t := by
  have htake : SameTime s (takeStimulus s) := .of_clk rfl
  have hsample : SameTime (clkNow (nextStimulus s).tickNow s) (sampleClock (takeStimulus s)) :=
    .of_clk (sampleClock_takeStimulus_clk s)
  rcases step_cases h with ⟨a, _, rfl⟩ | ⟨hact, _⟩ | ⟨p, _, _, rfl⟩ | ⟨p, why, _, _, _, rfl⟩ | ⟨p, i, _, _, _, hexec⟩
  · exact (agentStep_time_cases a _).imp htake.trans hsample.trans
  · exact absurd hact hreset
  · exact .inl htake
  · exact .inl (.of_clk rfl)
  · exact (exec_time_cases (s := takeStimulus s) hstarted hexec).imp htake.trans hsample.trans

end

end Sys2Proof.Machine
end

section
/-! PROOFS of O19, O12 to O18 and O20 to O22: the clock (41_clock.md rules R150 to R162). -/

namespace Sys2Proof.Machine

open Sys2Proof Sys2Proof.Claims

/-- Settles O19: a step keeps the time or samples it, and a sample under the single-wrap premise keeps the clock right. -/
theorem everyStepKeepsTheClockRight : Obligations.EveryStepKeepsTheClockRight := by
  intro origin before after s t hright hwrap htick hreset h
  have hparams := step_params h
  rcases step_time_cases hright.started hreset h with hsame | hsample
  · exact .inr ⟨hright.of_sameTime hsame hparams, hsame.total⟩
  · rw [htick] at hsample
    exact .inl ((hright.clkNow hwrap).of_sameTime hsample hparams)

/-- Settles O12: one equation for each reading of `MAX_TICK`. -/
theorem wrapsubIsTheDifferenceModulo : Obligations.WrapsubIsTheDifferenceModulo := fun new old =>
  ⟨wrapsub32_pow32 new old, wrapsub32_pow32MinusOne new old⟩

/-- Settles O13: the tick operand's form, and the two cases of CLK.START. -/
theorem clkStartInitializesTheClockOnce : Obligations.ClkStartInitializesTheClockOnce :=
  ⟨fun _ _ => portStep_tickOperand (op := .clkStart) fun _ _ => rfl,
    fun refTick s => eq_next_ite (execClkStart_cases refTick s)⟩

/-- Settles O14: the form without operands, and the two cases of CLK.NOW. -/
theorem clkNowSamplesAndAnswersTheTotal : Obligations.ClkNowSamplesAndAnswersTheTotal :=
  ⟨fun _ _ => portStep_noOperands (op := .clkNow) fun _ _ => rfl, fun s => eq_next_ite (execClkNow_cases s)⟩

/-- Settles O15: the tick operand's form, and the two cases of CLK.CONV. -/
theorem clkConvConvertsAPastTick : Obligations.ClkConvConvertsAPastTick :=
  ⟨fun _ _ => portStep_tickOperand (op := .clkConv) fun _ _ => rfl,
    fun tick s => eq_next_ite (execClkConv_cases tick s)⟩

/-- Settles O16: the form without operands, and the two cases of CLK.STOP, which answers OK in both. -/
theorem clkStopSignalsTheRefreshTask : Obligations.ClkStopSignalsTheRefreshTask := by
  refine ⟨fun _ _ => portStep_noOperands (op := .clkStop) fun _ _ => rfl, fun s => ?_⟩
  rw [apply_ite (answered .ok 0 [])]
  exact eq_next_ite (execClkStop_cases s)

/-- Settles O17: what each of the task's steps does where it is enabled, told the stop or not. -/
theorem refreshTaskSamplesWakesAndExits : Obligations.RefreshTaskSamplesWakesAndExits := by
  refine fun s => ⟨stepIs_of_perform rfl ?_, stepIs_of_perform rfl ?_⟩
  · rcases clkrTimeout_cases s with ⟨hstop, h⟩ | ⟨hstop, h⟩ <;> rw [perform, h, hstop] <;> rfl
  · rcases clkrWake_cases s with ⟨hstop, h⟩ | ⟨hstop, h⟩ <;> rw [perform, h, hstop] <;> rfl

/-- Settles O18: CLK.START starts a right clock, and CLK.NOW answers the total of a sample that keeps it right. -/
theorem clkNowAnswersTheTimeSinceStart : Obligations.ClkNowAnswersTheTimeSinceStart := by
  constructor
  · intro real s hstopped hmax
    rcases execClkStart_cases (tickAt real) s with ⟨hstarted, _⟩ | ⟨_, h⟩
    · exact absurd (hstarted.symm.trans hstopped) (by decide)
    · exact ⟨_, h, clockRight_of_startedClock rfl hmax⟩
  · intro origin before after s hright hwrap htick
    have hafter := hright.clkNow hwrap
    rw [← htick] at hafter
    rcases execClkNow_cases s with ⟨_, h⟩ | ⟨hstopped, _⟩
    · refine ⟨_, h, hafter.of_sameTime (.of_clk rfl) rfl, ?_⟩
      exact congrArg (fun v => some (Response.mk .ok v [])) hafter.counted
    · exact absurd (hright.started.symm.trans hstopped) (by decide)

/-- Settles O20: CLK.CONV answers the conversion, which is the true time inside the window. -/
theorem clkConvIsTrueInsideTheWindow : Obligations.ClkConvIsTrueInsideTheWindow := by
  intro origin recorded real s hright horigin hle hlt
  rcases execClkConv_cases (tickAt recorded) s with ⟨_, h⟩ | ⟨hstopped, _⟩
  · rw [hright.clkConv_eq horigin hle hlt] at h
    exact h
  · exact absurd (hright.started.symm.trans hstopped) (by decide)

/-- Settles O21: a sample adds the delta, and the delta is the elapsed time modulo 2^32. -/
theorem lostWrapsAreWholePeriods : Obligations.LostWrapsAreWholePeriods := by
  intro before after s hmax hle hlast
  rw [clkNow_clk, hmax, hlast, wrapsub32_tickAt hle]

/-- Settles O22: a step keeps the time or samples it, and a sample adds less than 2^32. -/
theorem totalNeverDecreases : Obligations.TotalNeverDecreases := by
  intro s t h hreset hstarted hroom
  rcases step_time_cases hstarted hreset h with hsame | hsample
  · rw [hsame.started, hsame.total]
    exact ⟨hstarted, Nat.le_refl _, Nat.lt_add_of_pos_right (by decide)⟩
  · rw [hsample.started, hsample.total, clkNow_total_toNat _ hroom]
    exact ⟨hstarted, Nat.le_add_right _ _, Nat.add_lt_add_left (wrapsub32_lt _ _ _) _⟩

end Sys2Proof.Machine
end

section
/-! LAWS. What an edge does, one equation for each kind of edge, over the terms of the claims (42_edge_capture.md rules
R182 to R193), and the enqueue as rule R231 says it. -/

namespace Sys2Proof.Machine

open Sys2Proof Sys2Proof.Claims

/-! ### The enqueue -/

theorem full_eq_not_hasRoom (d : Depth) (n : Nat) : full d n = !hasRoom d n := by
  cases d with
  | unbounded => rw [hasRoom_unbounded]; rfl
  | bounded p => rw [hasRoom_bounded, full, ← decide_not, decide_eq_decide]; omega

theorem saturatingSucc_eq_dropsAfter (q : BitVec 32) : saturatingSucc q = dropsAfter q :=
  BitVec.eq_of_toNat_eq (by rw [saturatingSucc_toNat, dropsAfter, BitVec.toNat_ofNat, Nat.mod_eq_of_lt (by omega)])

/-- The three ways of an enqueue are the two of rule R231: a drop that is counted, or an entry and a wakeup. -/
theorem decEnqueue_eq_enqueued (seq : List Duration) (t0 : Micros) (s : State) :
    decEnqueue seq t0 s = enqueued seq t0 s := by
  unfold enqueued
  rw [full_eq_not_hasRoom, ← saturatingSucc_eq_dropsAfter]
  rcases decEnqueue_cases seq t0 s with ⟨hstop, _, h⟩ | ⟨hstop, hroom, _, h⟩ | ⟨hstop, hroom, _, h⟩ <;> rw [h, hstop]
  · rfl
  · rw [hroom]; rfl
  · rw [hroom]; rfl

/-! ### The edge event -/

@[simp] theorem sampled_cap (s : State) : (sampled s).cap = s.cap := rfl
@[simp] theorem sampled_cfg (s : State) : (sampled s).cfg = s.cfg := rfl
@[simp] theorem sampled_params (s : State) : (sampled s).params = s.params := rfl

section
variable {level : Level} {tick : Tick} {time st : Micros} {s : State}

theorem exec_edge_of_disabled (h : s.cap.enabled = false) : exec (.edge level tick) s = .next s := by
  rcases execEdge_cases level tick s with ⟨hen, _⟩ | ⟨_, ho⟩
  · exact absurd (hen.symm.trans h) (by decide)
  · exact ho

/-- The clock is sampled, the tick converted, and the edge framed (rule R184). -/
theorem exec_edge_of_enabled (h : s.cap.enabled = true) :
    exec (.edge level tick) s = .next (frameEdge level (edgeTime tick s) (sampled s)) := by
  rcases execEdge_cases level tick s with ⟨_, ho⟩ | ⟨hdis, _⟩
  · exact ho
  · exact absurd (h.symm.trans hdis) (by decide)

/-! ### The framing step -/

theorem frameEdge_of_duplicate (h : s.cap.lastLevel = some level) : frameEdge level time s = s := if_pos h

theorem frameEdge_of_idle (hlevel : s.cap.lastLevel ≠ some level) (hbuf : s.cap.buf = []) :
    frameEdge level time s = recordEdge level time (idleEdge level time s) := by
  simp [frameEdge, hlevel, hbuf]

theorem frameEdge_of_accumulating (hlevel : s.cap.lastLevel ≠ some level) (hbuf : s.cap.buf ≠ []) :
    frameEdge level time s = recordEdge level time (accumEdge level time s) := by
  simp [frameEdge, hlevel, hbuf]

theorem finished_iff {maxLen : Nat} {cfg : CfgState} {d : Duration} {buf : List Duration} :
    finished maxLen cfg d buf = true ↔ cfg.endDur.toNat < d.toNat ∨ maxLen ≤ buf.length := by
  simp [finished, BitVec.lt_def]

theorem qualifies_iff {cfg : CfgState} {d : Duration} :
    qualifies cfg d = true ↔ cfg.startDur.toNat ≤ d.toNat ∧ d.toNat < cfg.endDur.toNat := by
  simp [qualifies, BitVec.lt_def, BitVec.le_def]

/-- A rising edge with no pending start records its time (rules R186, R193). -/
theorem frameEdge_high_of_no_start (hlevel : s.cap.lastLevel ≠ some .high) (hbuf : s.cap.buf = [])
    (hstart : s.cap.start = none) :
    frameEdge .high time s =
      { s with cap := { s.cap with lastLevel := some .high, lastTime := time, start := some time } } := by
  simp [frameEdge_of_idle hlevel hbuf, idleEdge, recordEdge, hstart]

/-- A falling edge ends the pending pulse, which commits a message if it qualifies (rules R187, R188, R193). -/
theorem frameEdge_low_of_pending (hlevel : s.cap.lastLevel ≠ some .low) (hbuf : s.cap.buf = [])
    (hstart : s.cap.start = some st) :
    frameEdge .low time s =
      if s.cfg.startDur.toNat ≤ (time - st).toNat ∧ (time - st).toNat < s.cfg.endDur.toNat then
        { s with cap := { s.cap with lastLevel := some .low, lastTime := time, buf := [time - st] } }
      else { s with cap := { s.cap with lastLevel := some .low, lastTime := time, start := none } } := by
  simp only [frameEdge_of_idle hlevel hbuf, idleEdge, hstart, ← qualifies_iff]
  split <;> rfl

/-- Every other edge of an idle framer resets the pending start (rules R188, R193). -/
theorem frameEdge_resets_start (hlevel : s.cap.lastLevel ≠ some level) (hbuf : s.cap.buf = [])
    (hstart : level = .high ↔ s.cap.start ≠ none) :
    frameEdge level time s =
      { s with cap := { s.cap with lastLevel := some level, lastTime := time, start := none } } := by
  rw [frameEdge_of_idle hlevel hbuf]
  rcases idleEdge_cases level time s with ⟨hhigh, hnone, _⟩ | ⟨st, hlow, hsome, _, _⟩ | h
  · exact absurd hnone (hstart.mp hhigh)
  · exact absurd (hlow.symm.trans (hstart.mpr (by simp [hsome]))) (by decide)
  · rw [h]; rfl

/-- An edge inside a message that neither the gap nor the cap finishes (rules R189, R190, R193). -/
theorem frameEdge_of_unfinished (hlevel : s.cap.lastLevel ≠ some level) (hbuf : s.cap.buf ≠ [])
    (hgap : (time - s.cap.lastTime).toNat ≤ s.cfg.endDur.toNat) (hlen : s.cap.buf.length + 1 < s.params.maxLen) :
    frameEdge level time s =
      { s with
        cap :=
          { s.cap with
            lastLevel := some level
            lastTime := time
            buf := s.cap.buf ++ [time - s.cap.lastTime] } } := by
  rw [frameEdge_of_accumulating hlevel hbuf]
  rcases accumEdge_cases level time s with ⟨hfin, _⟩ | ⟨_, h⟩
  · rw [finished_iff, List.length_append, List.length_singleton] at hfin
    omega
  · rw [h]; rfl

theorem recordEdge_restartAt (level : Level) (time : Micros) (s : State) :
    recordEdge level time (restartAt level time s) =
      { s with
        cap :=
          { enabled := s.cap.enabled, lastLevel := some level, lastTime := time
            start := if level = .high then some time else none, buf := [] } } := by
  cases level <;> rfl

theorem messageStart_of_start {buf : List Duration} (h : s.cap.start = some st) : messageStart buf time s = st := by
  rw [messageStart, h]

/-- An edge that finishes a message with a start time (rules R190 to R193). -/
theorem frameEdge_of_finished (hlevel : s.cap.lastLevel ≠ some level) (hbuf : s.cap.buf ≠ [])
    (hstart : s.cap.start = some st)
    (hfin : s.cfg.endDur.toNat < (time - s.cap.lastTime).toNat ∨ s.params.maxLen ≤ s.cap.buf.length + 1) :
    frameEdge level time s =
      { (if s.cfg.minLen.toNat ≤ (s.cap.buf ++ [time - s.cap.lastTime]).length then
          enqueued (s.cap.buf ++ [time - s.cap.lastTime]) st s
        else s) with
        cap :=
          { enabled := s.cap.enabled, lastLevel := some level, lastTime := time
            start := if level = .high then some time else none, buf := [] } } := by
  obtain ⟨_, hcap, _⟩ := handOff_frame (s.cap.buf ++ [time - s.cap.lastTime]) time s
  rw [frameEdge_of_accumulating hlevel hbuf]
  rcases accumEdge_cases level time s with ⟨_, h⟩ | ⟨hnot, _⟩
  · rw [h, recordEdge_restartAt, hcap, handOff, messageStart_of_start hstart, decEnqueue_eq_enqueued]
  · rw [Bool.eq_false_iff, ne_eq, finished_iff, List.length_append, List.length_singleton] at hnot
    exact absurd hfin hnot

/-- The queue sees an edge only by a hand-off of the whole sequence, when the message is finished and long enough (rules
R190, R191). -/
theorem frameEdge_dec_cases (level : Level) (time : Micros) (s : State) :
    (frameEdge level time s).dec = s.dec ∨
      (s.cap.buf ≠ [] ∧
        finished s.params.maxLen s.cfg (time - s.cap.lastTime) (s.cap.buf ++ [time - s.cap.lastTime]) = true ∧
          s.cfg.minLen.toNat ≤ (s.cap.buf ++ [time - s.cap.lastTime]).length ∧
            (frameEdge level time s).dec =
              (decEnqueue (s.cap.buf ++ [time - s.cap.lastTime])
                (messageStart (s.cap.buf ++ [time - s.cap.lastTime]) time s) s).dec) := by
  rcases frameEdge_cases level time s with ⟨_, h⟩ | ⟨_, _, h⟩ | ⟨_, hbuf, h⟩ <;> rw [h]
  · exact .inl rfl
  · obtain ⟨_, _, hdec, _⟩ := idleEdge_frame level time s
    exact .inl hdec
  · rcases accumEdge_cases level time s with ⟨hfin, ha⟩ | ⟨_, ha⟩ <;> rw [ha]
    · rcases handOff_cases (s.cap.buf ++ [time - s.cap.lastTime]) time s with ⟨hmin, ho⟩ | ⟨_, ho⟩ <;> rw [ho]
      · exact .inr ⟨hbuf, hfin, hmin, rfl⟩
      · exact .inl rfl
    · exact .inl rfl

end

end Sys2Proof.Machine
end

section
/-! LAWS. The invariant in the groups of clauses that read the same fields. A step that writes none of a group's fields
keeps the group, so only the group's own writers are left to look at. -/

namespace Sys2Proof.Machine

open Sys2Proof Sys2Proof.Claims

/-! ### The groups -/

/-- The framer's clauses (42_edge_capture.md rules R184 and R198, items 1 to 5). -/
structure FramerInv (s : State) : Prop where
  bufShort : s.cap.buf.length < s.params.maxLen
  bufHasStart : s.cap.buf ≠ [] → s.cap.start.isSome
  bufLevel : s.cap.buf ≠ [] → s.cap.lastLevel = some (lastLevelOf s.cap.buf.length)
  disabledIdle : s.cap.enabled = false → s.cap.buf = [] ∧ s.cap.start = none ∧ s.cap.lastLevel = none
  pendingHigh : s.cap.start.isSome → s.cap.buf = [] → s.cap.lastLevel = some .high
  captureClocked : s.cap.enabled = true → s.clk.started = true

/-- The refresh task's clauses (41_clock.md rules R157 to R159). -/
structure RefreshInv (s : State) : Prop where
  refreshClocked : s.clk.refreshRunning = true → s.clk.started = true
  refreshWakeMeansStop : s.clk.refreshEv = true → s.clk.refreshStop = true
  refreshStopWakes : s.clk.refreshRunning = true → s.clk.refreshStop = true → s.clk.refreshEv = true

/-- The clauses of the queue and its worker (43_decoder.md rules R232 to R237). -/
structure QueueInv (s : State) : Prop where
  queueFits : withinDepth s.params.queueDepth s.dec.queue.length
  framesFit : ∀ e ∈ s.dec.queue, e.seq.length ≤ s.params.maxLen
  noFrameStranded : s.dec.worker = .waiting → s.dec.queue ≠ [] → s.dec.qEv = true
  stopWakes : s.dec.stop = true → s.dec.worker ≠ .exited → s.dec.qEv = true
  exitedStopped : s.dec.worker = .exited → s.dec.stop = true

/-- The result channel's clause (10_state.md rule R54). -/
structure ResultInv (s : State) : Prop where
  resFits : withinDepth s.params.resultDepth s.chan.res.length

/-- The clauses of a pending join (10_state.md rule R55, log 5). -/
structure JoinInv (s : State) : Prop where
  joinStopped : s.chan.joinPending = true → s.dec.stop = true
  joinUnanswered : s.chan.joinPending = true → s.chan.response = none

/-- The groups are the invariant. -/
theorem inv_iff {s : State} :
    s.Inv ↔ Literals.Ok s.params.toLiterals ∧ FramerInv s ∧ RefreshInv s ∧ QueueInv s ∧ ResultInv s ∧ JoinInv s := by
  constructor
  · exact fun h =>
      ⟨h.literalsOk,
        ⟨h.bufShort, h.bufHasStart, h.bufLevel, h.disabledIdle, h.pendingHigh, h.captureClocked⟩,
        ⟨h.refreshClocked, h.refreshWakeMeansStop, h.refreshStopWakes⟩,
        ⟨h.queueFits, h.framesFit, h.noFrameStranded, h.stopWakes, h.exitedStopped⟩,
        ⟨h.resFits⟩, ⟨h.joinStopped, h.joinUnanswered⟩⟩
  · rintro ⟨hliterals, hframer, hrefresh, hqueue, hresult, hjoin⟩
    exact { hframer, hrefresh, hqueue, hresult, hjoin with literalsOk := hliterals }

/-! ### What each group reads

A step that leaves a whole group of the state alone keeps the clauses that read it (`of_cap`, `of_clk`, `of_dec`), and
so does one whose footprint misses their fields (`of_writesOnly`). -/

/-- The fields that each group reads. -/
abbrev framerFields : List StateField := [.enabled, .lastLevel, .start, .buf, .started]
abbrev refreshFields : List StateField := [.started, .refreshRunning, .refreshStop, .refreshEv]
abbrev queueFields : List StateField := [.queue, .qEv, .stop, .worker]
abbrev joinFields : List StateField := [.stop, .joinPending, .response]

section
variable {fs : List StateField} {s t u : State}

theorem FramerInv.of_cap (h : FramerInv s) (hcap : t.cap = s.cap) (hstarted : t.clk.started = s.clk.started)
    (hparams : t.params = s.params) : FramerInv t := by
  obtain ⟨h1, h2, h3, h4, h5, h6⟩ := h
  constructor <;> simpa only [hcap, hstarted, hparams]

theorem RefreshInv.of_clk (h : RefreshInv s) (hclk : t.clk = s.clk) : RefreshInv t := by
  obtain ⟨h1, h2, h3⟩ := h
  constructor <;> simpa only [hclk]

theorem QueueInv.of_dec (h : QueueInv s) (hdec : t.dec = s.dec) (hparams : t.params = s.params) : QueueInv t := by
  obtain ⟨h1, h2, h3, h4, h5⟩ := h
  constructor <;> simpa only [hdec, hparams]

theorem FramerInv.of_writesOnly (h : FramerInv s) (hw : WritesOnly fs s t) (hparams : t.params = s.params)
    (hdisj : ∀ f ∈ framerFields, f ∉ fs) : FramerInv t := by
  have henabled : t.cap.enabled = s.cap.enabled := hw .enabled (hdisj _ (by decide))
  have hlevel : t.cap.lastLevel = s.cap.lastLevel := hw .lastLevel (hdisj _ (by decide))
  have hstart : t.cap.start = s.cap.start := hw .start (hdisj _ (by decide))
  have hbuf : t.cap.buf = s.cap.buf := hw .buf (hdisj _ (by decide))
  have hstarted : t.clk.started = s.clk.started := hw .started (hdisj _ (by decide))
  obtain ⟨h1, h2, h3, h4, h5, h6⟩ := h
  constructor <;> simpa only [henabled, hlevel, hstart, hbuf, hstarted, hparams]

theorem RefreshInv.of_writesOnly (h : RefreshInv s) (hw : WritesOnly fs s t) (hdisj : ∀ f ∈ refreshFields, f ∉ fs) :
    RefreshInv t := by
  have hstarted : t.clk.started = s.clk.started := hw .started (hdisj _ (by decide))
  have hrunning : t.clk.refreshRunning = s.clk.refreshRunning := hw .refreshRunning (hdisj _ (by decide))
  have hstop : t.clk.refreshStop = s.clk.refreshStop := hw .refreshStop (hdisj _ (by decide))
  have hev : t.clk.refreshEv = s.clk.refreshEv := hw .refreshEv (hdisj _ (by decide))
  obtain ⟨h1, h2, h3⟩ := h
  constructor <;> simpa only [hstarted, hrunning, hstop, hev]

theorem QueueInv.of_writesOnly (h : QueueInv s) (hw : WritesOnly fs s t) (hparams : t.params = s.params)
    (hdisj : ∀ f ∈ queueFields, f ∉ fs) : QueueInv t := by
  have hqueue : t.dec.queue = s.dec.queue := hw .queue (hdisj _ (by decide))
  have hqEv : t.dec.qEv = s.dec.qEv := hw .qEv (hdisj _ (by decide))
  have hstop : t.dec.stop = s.dec.stop := hw .stop (hdisj _ (by decide))
  have hworker : t.dec.worker = s.dec.worker := hw .worker (hdisj _ (by decide))
  obtain ⟨h1, h2, h3, h4, h5⟩ := h
  constructor <;> simpa only [hqueue, hqEv, hstop, hworker, hparams]

theorem ResultInv.of_writesOnly (h : ResultInv s) (hw : WritesOnly fs s t) (hparams : t.params = s.params)
    (hdisj : .res ∉ fs) : ResultInv t := by
  have hres : t.chan.res = s.chan.res := hw .res hdisj
  exact ⟨by rw [hres, hparams]; exact h.resFits⟩

theorem JoinInv.of_writesOnly (h : JoinInv s) (hw : WritesOnly fs s t) (hdisj : ∀ f ∈ joinFields, f ∉ fs) :
    JoinInv t := by
  have hstop : t.dec.stop = s.dec.stop := hw .stop (hdisj _ (by decide))
  have hpending : t.chan.joinPending = s.chan.joinPending := hw .joinPending (hdisj _ (by decide))
  have hresponse : t.chan.response = s.chan.response := hw .response (hdisj _ (by decide))
  obtain ⟨h1, h2⟩ := h
  constructor <;> simpa only [hstop, hpending, hresponse]

theorem JoinInv.of_not_pending (h : s.chan.joinPending = false) : JoinInv s :=
  ⟨fun hp => absurd (h.symm.trans hp) (by decide), fun hp => absurd (h.symm.trans hp) (by decide)⟩

/-! ### Reset and the environment -/

/-- No clause reads the environment. -/
theorem State.Inv.with_env (h : s.Inv) (e : EnvState) : State.Inv { s with env := e } :=
  inv_iff.mpr <| by
    obtain ⟨hliterals, hframer, hrefresh, hqueue, hresult, hjoin⟩ := inv_iff.mp h
    exact ⟨hliterals, hframer.of_cap rfl rfl rfl, hrefresh.of_clk rfl, hqueue.of_dec rfl rfl, ⟨hresult.resFits⟩,
      ⟨hjoin.joinStopped, hjoin.joinUnanswered⟩⟩

/-- After reset nothing runs, nothing is queued and nothing is pending (70_reset_and_hazards.md rule R341). -/
theorem inv_ofParams {p : Params} (h : Literals.Ok p.toLiterals) : (State.ofParams p).Inv where
  literalsOk := h
  bufShort := Nat.zero_lt_of_lt h.capAboveFirst
  bufHasStart := by simp [State.ofParams]
  bufLevel := by simp [State.ofParams]
  disabledIdle := by simp [State.ofParams]
  pendingHigh := by simp [State.ofParams]
  captureClocked := by simp [State.ofParams]
  refreshClocked := by simp [State.ofParams]
  refreshWakeMeansStop := by simp [State.ofParams]
  refreshStopWakes := by simp [State.ofParams]
  queueFits := withinDepth_zero _
  framesFit := by simp [State.ofParams]
  resFits := withinDepth_zero _
  noFrameStranded := by simp [State.ofParams]
  stopWakes := by simp [State.ofParams]
  exitedStopped := by simp [State.ofParams]
  joinStopped := by simp [State.ofParams]
  joinUnanswered := by simp [State.ofParams]

theorem config_literals_ok : Literals.Ok Config.literals := by constructor <;> decide

end

end Sys2Proof.Machine
end

section
/-! LAWS. The writers of each group of the invariant: what their steps do to the group's clauses. -/

namespace Sys2Proof.Machine

open Sys2Proof Sys2Proof.Claims

section
variable {s t : State}

/-- An operation answers one state only, so what holds of that state holds of its outcome. -/
theorem holds_of_next {P : State → Prop} {o : Host.Outcome State Fault Refusal} {u : State} (ht : o = .next t)
    (hu : o = .next u) (h : P u) : P t :=
  Host.Outcome.next.inj (hu.symm.trans ht) ▸ h

/-- What an agent's step keeps wherever it is enabled, its being scheduled keeps (log 2). -/
theorem agentStep_keeps {P : State → Prop} {a : AgentStep} (h : P s)
    (hstep : enabled a s = true → P (perform a s)) : P (agentStep a s) := by
  rcases agentStep_cases a s with ⟨henabled, hs⟩ | ⟨_, hs⟩ <;> rw [hs]
  · exact hstep henabled
  · exact h

/-! ### The refresh task -/

theorem exec_keeps_refreshInv {i : Instr} (h : RefreshInv s) (hx : exec i s = .next t) : RefreshInv t := by
  cases i with
  | clkStart refTick =>
    rcases execClkStart_cases refTick s with ⟨_, ho⟩ | ⟨_, ho⟩
    · exact holds_of_next hx ho (h.of_clk rfl)
    · exact holds_of_next hx ho ⟨fun _ => rfl, nofun, nofun⟩
  | clkStop =>
    rcases execClkStop_cases s with ⟨_, ho⟩ | ⟨_, ho⟩
    · exact holds_of_next hx ho ⟨h.refreshClocked, fun _ => rfl, fun _ _ => rfl⟩
    · exact holds_of_next hx ho (h.of_clk rfl)
  | _ => exact h.of_writesOnly (exec_writesOnly hx) (by simp [footprint])

theorem agentStep_keeps_refreshInv (a : AgentStep) (h : RefreshInv s) : RefreshInv (agentStep a s) := by
  cases a with
  | clkrTimeout =>
    refine agentStep_keeps h fun _ => ?_
    rcases clkrTimeout_cases s with ⟨_, ho⟩ | ⟨_, ho⟩ <;> rw [perform, ho]
    · exact ⟨nofun, h.refreshWakeMeansStop, nofun⟩
    · exact ⟨h.refreshClocked, h.refreshWakeMeansStop, h.refreshStopWakes⟩
  | clkrWake =>
    refine agentStep_keeps h fun _ => ?_
    rcases clkrWake_cases s with ⟨_, ho⟩ | ⟨hstop, ho⟩ <;> rw [perform, ho]
    · exact ⟨nofun, nofun, nofun⟩
    · exact ⟨h.refreshClocked, nofun, fun _ ht => absurd (hstop.symm.trans ht) (by decide)⟩
  | _ => exact h.of_writesOnly (agentStep_writesOnly _ s) (by decide)

/-! ### The framer -/

/-- An idle framer on a started clock, with a pending start only after a rising edge. -/
theorem FramerInv.of_idle (hlen : 0 < s.params.maxLen) (henabled : s.cap.enabled = true)
    (hclocked : s.clk.started = true) (hbuf : s.cap.buf = [])
    (hpending : s.cap.start.isSome → s.cap.lastLevel = some .high) : FramerInv s where
  bufShort := by rw [hbuf]; exact hlen
  bufHasStart := fun hne => absurd hbuf hne
  bufLevel := fun hne => absurd hbuf hne
  disabledIdle := fun hdis => absurd (henabled.symm.trans hdis) (by decide)
  pendingHigh := fun hstart _ => hpending hstart
  captureClocked := fun _ => hclocked

/-- A framer inside a message, below the cap and after the edge that fits its buffer. -/
theorem FramerInv.of_accumulating (hlen : s.cap.buf.length < s.params.maxLen) (henabled : s.cap.enabled = true)
    (hclocked : s.clk.started = true) (hbuf : s.cap.buf ≠ []) (hstart : s.cap.start.isSome)
    (hlevel : s.cap.lastLevel = some (lastLevelOf s.cap.buf.length)) : FramerInv s where
  bufShort := hlen
  bufHasStart := fun _ => hstart
  bufLevel := fun _ => hlevel
  disabledIdle := fun hdis => absurd (henabled.symm.trans hdis) (by decide)
  pendingHigh := fun _ hnil => absurd hnil hbuf
  captureClocked := fun _ => hclocked

/-- The levels of accepted edges alternate with the durations they append (rule R198, item 5). -/
theorem eq_lastLevelOf_succ {level : Level} {n : Nat} (h : some (lastLevelOf n) ≠ some level) :
    level = lastLevelOf (n + 1) := by
  revert h
  rcases Nat.mod_two_eq_zero_or_one n with hn | hn <;> cases level <;> simp [lastLevelOf, Nat.add_mod, hn]

/-- An edge while capture is enabled: it is a duplicate, or it leaves the framer idle or inside a message (rules R185 to
R193, R198). -/
theorem frameEdge_keeps_framerInv {level : Level} {time : Micros} (h : FramerInv s) (hcap : 2 ≤ s.params.maxLen)
    (henabled : s.cap.enabled = true) : FramerInv (frameEdge level time s) := by
  have hclocked := h.captureClocked henabled
  have hpos : 0 < s.params.maxLen := Nat.zero_lt_of_lt hcap
  rcases frameEdge_cases level time s with ⟨_, hf⟩ | ⟨_, hbuf, hf⟩ | ⟨hlevel, hbuf, hf⟩ <;> rw [hf]
  · exact h
  · rcases idleEdge_cases level time s with ⟨rfl, _, hi⟩ | ⟨st, rfl, hstart, _, hi⟩ | hi <;> rw [hi]
    · exact .of_idle hpos henabled hclocked hbuf fun _ => rfl
    · exact .of_accumulating hcap henabled hclocked (List.cons_ne_nil _ _) (Option.isSome_of_eq_some hstart) rfl
    · exact .of_idle hpos henabled hclocked hbuf nofun
  · rcases accumEdge_cases level time s with ⟨_, ha⟩ | ⟨hgoing, ha⟩ <;> rw [ha]
    · obtain ⟨hclk, hcapEq, _, _, _, hparams, _⟩ := handOff_frame (s.cap.buf ++ [time - s.cap.lastTime]) time s
      refine .of_idle ?_ ?_ ?_ rfl ?_
      · simpa [hparams] using hpos
      · simpa [hcapEq] using henabled
      · simpa [hclk] using hclocked
      · cases level <;> simp
    · rw [Bool.eq_false_iff, ne_eq, finished_iff] at hgoing
      have hlen : (s.cap.buf ++ [time - s.cap.lastTime]).length < s.params.maxLen := by omega
      rw [h.bufLevel hbuf] at hlevel
      refine .of_accumulating hlen henabled hclocked (by simp) (h.bufHasStart hbuf) ?_
      simp [← eq_lastLevelOf_succ hlevel]

/-- A sample of the clock touches no field of the framer. -/
theorem FramerInv.sampled (h : FramerInv s) : FramerInv (sampled s) :=
  h.of_cap rfl rfl rfl

theorem exec_keeps_framerInv {i : Instr} (h : FramerInv s) (hcap : 2 ≤ s.params.maxLen) (hx : exec i s = .next t) :
    FramerInv t := by
  cases i with
  | clkStart refTick =>
    rcases execClkStart_cases refTick s with ⟨_, ho⟩ | ⟨_, ho⟩
    · exact holds_of_next hx ho (h.of_cap rfl rfl rfl)
    · exact holds_of_next hx ho
        ⟨h.bufShort, h.bufHasStart, h.bufLevel, h.disabledIdle, h.pendingHigh, fun _ => rfl⟩
  | capStart =>
    rcases execCapStart_cases s with ⟨hstarted, ho⟩ | ⟨_, ho⟩
    · exact holds_of_next hx ho
        ⟨h.bufShort, h.bufHasStart, h.bufLevel, nofun, h.pendingHigh, fun _ => hstarted⟩
    · exact holds_of_next hx ho (h.of_cap rfl rfl rfl)
  | capStop =>
    exact holds_of_next hx rfl
      ⟨Nat.zero_lt_of_lt hcap, fun hne => absurd rfl hne, fun hne => absurd rfl hne, fun _ => ⟨rfl, rfl, rfl⟩, nofun,
        nofun⟩
  | edge level tick =>
    cases henabled : s.cap.enabled with
    | true =>
      exact holds_of_next hx (exec_edge_of_enabled henabled) (frameEdge_keeps_framerInv h.sampled hcap henabled)
    | false => exact holds_of_next hx (exec_edge_of_disabled henabled) h
  | _ => exact h.of_writesOnly (exec_writesOnly hx) (exec_params hx) (by simp [footprint])

/-- No agent moves the framer. -/
theorem agentStep_keeps_framerInv (a : AgentStep) (h : FramerInv s) : FramerInv (agentStep a s) :=
  h.of_writesOnly (agentStep_writesOnly a s) (agentStep_params a s) (by cases a <;> decide)

/-! ### The queue and its worker -/

/-- An enqueue appends only where there is room, and then signals (43_decoder.md rules R231, R237). -/
theorem decEnqueue_keeps_queueInv {seq : List Duration} {t0 : Micros} (h : QueueInv s)
    (hlen : seq.length ≤ s.params.maxLen) : QueueInv (decEnqueue seq t0 s) := by
  have hdrop : QueueInv (countDrop s) :=
    ⟨h.queueFits, h.framesFit, h.noFrameStranded, h.stopWakes, h.exitedStopped⟩
  rcases decEnqueue_cases seq t0 s with ⟨_, _, ho⟩ | ⟨_, _, _, ho⟩ | ⟨_, hroom, _, ho⟩ <;> rw [ho]
  · exact hdrop
  · exact hdrop
  · refine ⟨?_, fun e he => ?_, fun _ _ => rfl, fun _ _ => rfl, h.exitedStopped⟩
    · simpa using withinDepth_succ_of_hasRoom hroom
    · rcases List.mem_append.mp he with hold | hnew
      · exact h.framesFit e hold
      · rw [List.mem_singleton.mp hnew]
        exact hlen

/-- The hand-off enqueues a sequence that was below the cap before its last duration (42_edge_capture.md rule R198,
item 1). -/
theorem frameEdge_keeps_queueInv {level : Level} {time : Micros} (h : QueueInv s) (hframer : FramerInv s) :
    QueueInv (frameEdge level time s) := by
  obtain ⟨_, _, _, _, hparams, _⟩ := frameEdge_frame level time s
  rcases frameEdge_dec_cases level time s with hdec | ⟨_, _, _, hdec⟩
  · exact h.of_dec hdec hparams
  · have hlen : (s.cap.buf ++ [time - s.cap.lastTime]).length ≤ s.params.maxLen := by
      simpa using hframer.bufShort
    obtain ⟨_, _, _, _, _, hup, _⟩ := decEnqueue_frame (s.cap.buf ++ [time - s.cap.lastTime])
      (messageStart (s.cap.buf ++ [time - s.cap.lastTime]) time s) s
    exact (decEnqueue_keeps_queueInv h hlen).of_dec hdec (hparams.trans hup.symm)

theorem exec_keeps_queueInv {i : Instr} (h : QueueInv s) (hframer : FramerInv s) (hx : exec i s = .next t) :
    QueueInv t := by
  cases i with
  | decSubmit t0 seq =>
    rcases execDecSubmit_cases t0 seq s with ⟨hlegal, ho⟩ | ⟨_, ho⟩
    · exact holds_of_next hx ho ((decEnqueue_keeps_queueInv h (of_decide_eq_true hlegal)).of_dec rfl rfl)
    · exact holds_of_next hx ho (h.of_dec rfl rfl)
  | decShutdown =>
    rcases execDecShutdown_cases s with ⟨_, ho⟩ | ⟨_, ho⟩
    · exact holds_of_next hx ho (h.of_dec rfl rfl)
    · exact holds_of_next hx ho ⟨h.queueFits, h.framesFit, fun _ _ => rfl, fun _ _ => rfl, fun _ => rfl⟩
  | edge level tick =>
    cases henabled : s.cap.enabled with
    | true =>
      exact holds_of_next hx (exec_edge_of_enabled henabled)
        (frameEdge_keeps_queueInv (h.of_dec rfl rfl) hframer.sampled)
    | false => exact holds_of_next hx (exec_edge_of_disabled henabled) h
  | _ => exact h.of_writesOnly (exec_writesOnly hx) (exec_params hx) (by simp [footprint])

theorem enabled_workerDecode_iff : enabled .workerDecode s = true ↔
    s.dec.worker = .draining ∧ s.dec.queue ≠ [] ∧ hasRoom s.params.resultDepth s.chan.res.length = true := by
  simp [enabled, and_assoc]

/-- The worker sleeps only on an empty queue, and exits only when told to stop (rules R232 to R237). -/
theorem agentStep_keeps_queueInv (a : AgentStep) (h : QueueInv s) : QueueInv (agentStep a s) := by
  cases a with
  | workerWake =>
    refine agentStep_keeps h fun _ => ?_
    rcases workerWake_cases s with ⟨hstop, ho⟩ | ⟨hstop, ho⟩ <;> rw [perform, ho]
    · exact ⟨h.queueFits, h.framesFit, nofun, fun _ hne => absurd rfl hne, fun _ => hstop⟩
    · exact ⟨h.queueFits, h.framesFit, nofun, fun hset => absurd (hstop.symm.trans hset) (by decide), nofun⟩
  | workerDecode =>
    refine agentStep_keeps h fun henabled => ?_
    obtain ⟨hdraining, _, _⟩ := enabled_workerDecode_iff.mp henabled
    rcases workerDecode_cases s with ⟨_, ho⟩ | ⟨e, rest, hqueue, ho⟩ <;> rw [perform, ho]
    · exact h
    · refine ⟨withinDepth_mono h.queueFits ?_, fun e' he' => h.framesFit e' ?_, fun hwait => ?_, h.stopWakes,
        h.exitedStopped⟩
      · simp [hqueue]
      · exact hqueue ▸ List.mem_cons_of_mem e he'
      · exact absurd (hdraining.symm.trans hwait) (by decide)
  | workerIdle =>
    refine agentStep_keeps h fun henabled => ?_
    have hworker : s.dec.worker = .draining ∧ s.dec.queue = [] := by simpa [enabled] using henabled
    obtain ⟨hdraining, hempty⟩ := hworker
    refine ⟨h.queueFits, h.framesFit, fun _ hne => absurd hempty hne, fun hstop _ => h.stopWakes hstop ?_, nofun⟩
    rw [hdraining]
    decide
  | workerExit =>
    refine agentStep_keeps h fun henabled => ?_
    have hworker : s.dec.worker = .draining ∧ s.dec.stop = true := by simpa [enabled] using henabled
    obtain ⟨_, hstop⟩ := hworker
    exact ⟨h.queueFits, h.framesFit, nofun, fun _ hne => absurd rfl hne, fun _ => hstop⟩
  | _ => exact h.of_writesOnly (agentStep_writesOnly _ s) (agentStep_params _ s) (by decide)

/-! ### The result channel -/

theorem exec_keeps_resultInv {i : Instr} (h : ResultInv s) (hx : exec i s = .next t) : ResultInv t := by
  cases i with
  | resPop =>
    rcases execResPop_cases s with ⟨_, ho⟩ | ⟨r, rest, hres, ho⟩
    · exact holds_of_next hx ho ⟨h.resFits⟩
    · exact holds_of_next hx ho ⟨withinDepth_mono h.resFits (by simp [hres])⟩
  | _ => exact h.of_writesOnly (exec_writesOnly hx) (exec_params hx) (by simp [footprint])

/-- A record is emitted only where there is room for it (43_decoder.md rule R233). -/
theorem agentStep_keeps_resultInv (a : AgentStep) (h : ResultInv s) : ResultInv (agentStep a s) := by
  cases a with
  | workerDecode =>
    refine agentStep_keeps h fun henabled => ?_
    obtain ⟨_, _, hroom⟩ := enabled_workerDecode_iff.mp henabled
    rcases workerDecode_cases s with ⟨_, ho⟩ | ⟨_, _, _, ho⟩ <;> rw [perform, ho]
    · exact h
    · exact ⟨by simpa using withinDepth_succ_of_hasRoom hroom⟩
  | _ => exact h.of_writesOnly (agentStep_writesOnly _ s) (agentStep_params _ s) (by decide)

/-! ### The pending join -/

/-- What a port takes while a join is pending is an edge (30_encoding.md rule R110). -/
theorem edge_or_not_pending_of_accepts {p : PortWord} {i : Instr} (hacc : accepts p s = true)
    (hdec : decode s.params p = .ok i) : (∃ level tick, i = .edge level tick) ∨ s.chan.joinPending = false := by
  rcases accepts_iff.mp hacc with hjoin | ⟨w, rfl⟩
  · exact .inr hjoin
  · exact .inl ⟨_, _, (Except.ok.inj hdec).symm⟩

theorem eq_decShutdown_of_joinPending_mem_footprint {i : Instr} (h : .joinPending ∈ footprint i) :
    i = .decShutdown := by
  cases i with
  | decShutdown => rfl
  | _ => simp [footprint] at h

/-- A command is answered only while no join is pending, and DEC.SHUTDOWN alone makes one pending (43_decoder.md rule
R248). -/
theorem exec_keeps_joinInv {i : Instr} (h : JoinInv s)
    (hready : (∃ level tick, i = .edge level tick) ∨ s.chan.joinPending = false) (hx : exec i s = .next t) :
    JoinInv t := by
  rcases hready with ⟨level, tick, rfl⟩ | hready
  · exact h.of_writesOnly (exec_writesOnly hx) (by simp [footprint])
  · by_cases hwrites : .joinPending ∈ footprint i
    · obtain rfl := eq_decShutdown_of_joinPending_mem_footprint hwrites
      rcases execDecShutdown_cases s with ⟨_, ho⟩ | ⟨_, ho⟩
      · exact holds_of_next hx ho (.of_not_pending hready)
      · exact holds_of_next hx ho ⟨fun _ => rfl, fun _ => rfl⟩
    · have hkept : t.chan.joinPending = s.chan.joinPending := exec_writesOnly hx .joinPending hwrites
      exact .of_not_pending (hkept.trans hready)

/-- The join completion ends the pending join. -/
theorem agentStep_keeps_joinInv (a : AgentStep) (h : JoinInv s) : JoinInv (agentStep a s) := by
  cases a with
  | joinDone => exact agentStep_keeps h fun _ => .of_not_pending rfl
  | _ => exact h.of_writesOnly (agentStep_writesOnly _ s) (by decide)

end

end Sys2Proof.Machine
end

section
/-! PROOFS of O54 and O53. The invariant is kept group by group, and holds after reset for all parameters in the
relations of `Literals.Ok` (42_edge_capture.md rule R198, 43_decoder.md rule R237). -/

namespace Sys2Proof.Machine

open Sys2Proof Sys2Proof.Claims

section
variable {s t : State}

/-- An operation that a port may run keeps the invariant. -/
theorem exec_keeps_inv {i : Instr} (h : s.Inv)
    (hready : (∃ level tick, i = .edge level tick) ∨ s.chan.joinPending = false) (hx : exec i s = .next t) :
    t.Inv := by
  obtain ⟨hliterals, hframer, hrefresh, hqueue, hresult, hjoin⟩ := inv_iff.mp h
  exact inv_iff.mpr ⟨exec_params hx ▸ hliterals, exec_keeps_framerInv hframer hliterals.capAboveFirst hx,
    exec_keeps_refreshInv hrefresh hx, exec_keeps_queueInv hqueue hframer hx, exec_keeps_resultInv hresult hx,
    exec_keeps_joinInv hjoin hready hx⟩

/-- An agent keeps the invariant, scheduled where it is enabled or not. -/
theorem agentStep_keeps_inv (a : AgentStep) (h : s.Inv) : (agentStep a s).Inv := by
  obtain ⟨hliterals, hframer, hrefresh, hqueue, hresult, hjoin⟩ := inv_iff.mp h
  exact inv_iff.mpr ⟨agentStep_params a s ▸ hliterals, agentStep_keeps_framerInv a hframer,
    agentStep_keeps_refreshInv a hrefresh, agentStep_keeps_queueInv a hqueue, agentStep_keeps_resultInv a hresult,
    agentStep_keeps_joinInv a hjoin⟩

/-- A command is refused only while no join is pending, so the answer leaves every clause as it was. -/
theorem respondError_keeps_inv (st : Status) (h : s.Inv) (hready : s.chan.joinPending = false) :
    (respondError st s).Inv := by
  obtain ⟨hliterals, hframer, hrefresh, hqueue, hresult, _⟩ := inv_iff.mp h
  exact inv_iff.mpr ⟨hliterals, hframer.of_cap rfl rfl rfl, hrefresh.of_clk rfl, hqueue.of_dec rfl rfl,
    ⟨hresult.resFits⟩, .of_not_pending hready⟩

end

/-- Settles O54: every kind of step keeps the invariant, and no clause reads the environment that the step advances. -/
theorem everyStepKeepsTheInvariant : Obligations.EveryStepKeepsTheInvariant := by
  intro s t h hstep
  have htaken : (takeStimulus s).Inv := h.with_env _
  rcases step_cases hstep with
    ⟨a, _, rfl⟩ | ⟨_, rfl⟩ | ⟨p, _, _, rfl⟩ | ⟨p, why, _, hacc, hdec, rfl⟩ | ⟨p, i, _, hacc, hdec, hexec⟩
  · exact agentStep_keeps_inv a htaken
  · exact (inv_ofParams h.literalsOk).with_env _
  · exact htaken
  · rcases accepts_iff.mp hacc with hjoin | ⟨w, rfl⟩
    · exact respondError_keeps_inv .illegal htaken hjoin
    · cases hdec
  · exact exec_keeps_inv htaken (edge_or_not_pending_of_accepts (s := takeStimulus s) hacc hdec) hexec

/-- Settles O53: the spec's parameters are in the relations. -/
theorem resetSatisfiesTheInvariant : Obligations.ResetSatisfiesTheInvariant := inv_ofParams config_literals_ok

end Sys2Proof.Machine
end

section
/-! PROOFS of O24 to O32: the commands of CAP and the edge event (42_edge_capture.md rules R180 to R193 and R198). -/

namespace Sys2Proof.Machine

open Sys2Proof Sys2Proof.Claims

/-- Settles O24: the form without operands, and the two cases of CAP.START. -/
theorem capStartNeedsAStartedClock : Obligations.CapStartNeedsAStartedClock :=
  ⟨fun _ _ => portStep_noOperands (op := .capStart) fun _ _ => rfl, fun s => eq_next_ite (execCapStart_cases s)⟩

/-- Settles O25: the form without operands, and the one case of CAP.STOP. -/
theorem capStopAbandonsTheFrame : Obligations.CapStopAbandonsTheFrame :=
  ⟨fun _ _ => portStep_noOperands (op := .capStop) fun _ _ => rfl, fun _ => rfl⟩

/-- Settles O27: the edge is dropped before the sample (rule R183). -/
theorem edgeIsDroppedWhileDisabled : Obligations.EdgeIsDroppedWhileDisabled := fun _ _ _ => exec_edge_of_disabled

/-- Settles O28: the sample comes before the test for a duplicate (rules R184, R185). -/
theorem duplicateEdgeOnlySamplesTheClock : Obligations.DuplicateEdgeOnlySamplesTheClock := by
  intro level tick s henabled hlevel
  have hlevel' : (sampled s).cap.lastLevel = some level := hlevel
  rw [exec_edge_of_enabled henabled, frameEdge_of_duplicate hlevel']

/-- Settles O26: the frame of the framing step, over the sampled state. -/
theorem edgeAlwaysCompletes : Obligations.EdgeAlwaysCompletes := by
  intro level tick s
  cases henabled : s.cap.enabled with
  | false => exact ⟨s, exec_edge_of_disabled henabled, rfl, rfl, rfl, rfl, rfl, rfl, henabled, rfl⟩
  | true =>
    obtain ⟨hclk, hcfg, hchan, henv, hparams, hworker, hstop⟩ := frameEdge_frame level (edgeTime tick s) (sampled s)
    exact ⟨_, exec_edge_of_enabled henabled, hcfg, hchan, henv, hparams, hworker, hstop,
      (frameEdge_enabled level (edgeTime tick s) (sampled s)).trans henabled, hclk⟩

/-- Settles O29: the three cases of step 3, the commit told by the thresholds. -/
theorem idleEdgeRecordsCommitsOrResetsTheStart : Obligations.IdleEdgeRecordsCommitsOrResetsTheStart := by
  intro level tick s henabled hlevel hbuf time after
  rw [exec_edge_of_enabled henabled]
  cases level with
  | high =>
    cases hstart : s.cap.start with
    | none =>
      rw [frameEdge_high_of_no_start (s := sampled s) hlevel hbuf hstart]
      simp [after, henabled, hbuf, time]
    | some st =>
      rw [frameEdge_resets_start (s := sampled s) hlevel hbuf (by simp [hstart])]
      simp [after, henabled, hbuf, time]
  | low =>
    cases hstart : s.cap.start with
    | none =>
      rw [frameEdge_resets_start (s := sampled s) hlevel hbuf (by simp [hstart])]
      simp [after, henabled, hbuf, time]
    | some st =>
      rw [frameEdge_low_of_pending (s := sampled s) hlevel hbuf hstart]
      simp [after, henabled, hbuf, hstart, time]

/-- Settles O30: the append, with the sampled clock. -/
theorem edgeInsideAMessageAppendsItsDuration : Obligations.EdgeInsideAMessageAppendsItsDuration := by
  intro level tick s henabled hlevel hbuf hgap hlen
  rw [exec_edge_of_enabled henabled, frameEdge_of_unfinished (s := sampled s) hlevel hbuf hgap hlen, ← henabled]
  rfl

/-- Settles O31: the hand-off and the restart, with the sampled clock. -/
theorem finishingEdgeHandsTheMessageOver : Obligations.FinishingEdgeHandsTheMessageOver := by
  intro level tick st s henabled hlevel hbuf hstart hfin
  rw [exec_edge_of_enabled henabled, frameEdge_of_finished (s := sampled s) hlevel hbuf hstart hfin, ← henabled]
  rfl

/-- Settles O32: a hand-off is of the finished message with its start time, which was below the cap before its last
duration. -/
theorem captureHandsOverOnlyLegalSequences : Obligations.CaptureHandsOverOnlyLegalSequences := by
  intro level tick s t hinv hx
  cases henabled : s.cap.enabled with
  | false =>
    obtain rfl := Host.Outcome.next.inj ((exec_edge_of_disabled henabled).symm.trans hx)
    exact .inl rfl
  | true =>
    obtain rfl := Host.Outcome.next.inj ((exec_edge_of_enabled henabled).symm.trans hx)
    rcases frameEdge_dec_cases level (edgeTime tick s) (sampled s) with hdec | ⟨hbuf, hfin, hmin, hdec⟩ <;> rw [hdec]
    · exact .inl rfl
    · obtain ⟨st, hstart⟩ := Option.isSome_iff_exists.mp (hinv.bufHasStart hbuf)
      have hlen : ((sampled s).cap.buf ++ [edgeTime tick s - (sampled s).cap.lastTime]).length ≤ s.params.maxLen := by
        rw [List.length_append]
        exact hinv.bufShort
      rw [messageStart_of_start (s := sampled s) hstart]
      rcases decEnqueue_cases _ st (sampled s) with ⟨_, _, ho⟩ | ⟨_, _, _, ho⟩ | ⟨_, _, _, ho⟩ <;> rw [ho]
      · exact .inl rfl
      · exact .inl rfl
      · refine .inr ⟨_, st, rfl, hstart, max_le hmin (by simp), hlen, ?_⟩
        rcases finished_iff.mp hfin with hgap | hfull
        · exact .inr ⟨_, List.getLast?_concat, hgap⟩
        · exact .inl (le_antisymm hlen hfull)

end Sys2Proof.Machine
end

section
/-! LAWS. A framer inside a message whose edges are handled in the tick they happen: each further edge appends exactly
the time since the one before it (42_edge_capture.md rules R186 to R193, 41_clock.md rule R156). -/

namespace Sys2Proof.Machine

open Sys2Proof Sys2Proof.Claims

/-! ### An edge handled in its own tick -/

/-- The state in which an edge is framed when it is handled in its own tick: the clock is sampled there. -/
def sampledAt (tick : Tick) (s : State) : State := sampled { s with env := { s.env with tickNow := tick } }

@[simp] theorem sampledAt_cap (tick : Tick) (s : State) : (sampledAt tick s).cap = s.cap := rfl
@[simp] theorem sampledAt_cfg (tick : Tick) (s : State) : (sampledAt tick s).cfg = s.cfg := rfl
@[simp] theorem sampledAt_params (tick : Tick) (s : State) : (sampledAt tick s).params = s.params := rfl

theorem enqueued_dec_congr {s t : State} (hdec : s.dec = t.dec) (hparams : s.params = t.params) (seq : List Duration)
    (t0 : Micros) : (enqueued seq t0 s).dec = (enqueued seq t0 t).dec := by
  simp only [enqueued, hdec, hparams]
  split <;> rfl

theorem otherLevel_ne (level : Level) : otherLevel level ≠ level := by cases level <;> decide

section
variable {level : Level} {tick : Tick} {st : Micros} {buf : List Duration} {d : Duration} {base s : State}

/-- An edge handled in its own tick happens at the sampled total (rule R156). -/
theorem afterEdge_of_enabled (h : s.cap.enabled = true) :
    afterEdge level tick s = frameEdge level (sampledAt tick s).clk.total (sampledAt tick s) := by
  have htime : edgeTime tick { s with env := { s.env with tickNow := tick } } = (sampledAt tick s).clk.total := by
    simp [edgeTime, sampledAt]
  rw [← htime, afterEdge, exec_edge_of_enabled (s := { s with env := { s.env with tickNow := tick } }) h]
  rfl

/-- With `MAX_TICK` = 2^32 a tick `d` later is `d` microseconds later, for every `d` below the wraparound. -/
theorem ofNat_wrapsub32_add (tick : Tick) (h : d.toNat < 2 ^ 32) :
    BitVec.ofNat 64 (wrapsub32 .pow32 (tick + d.setWidth 32) tick) = d := by
  rw [wrapsub32_pow32, add_sub_cancel_left, BitVec.toNat_setWidth, Nat.mod_eq_of_lt h, BitVec.ofNat_toNat,
    BitVec.setWidth_eq]

/-! ### Inside a message -/

/-- The framer of a block like `base` has taken the edges of a message begun at `st`: it holds the durations `buf`, and
its last edge, of level `level`, was handled at `tick`. -/
structure MidMessage (st : Micros) (buf : List Duration) (level : Level) (tick : Tick) (base s : State) : Prop where
  params : s.params = base.params
  cfg : s.cfg = base.cfg
  dec : s.dec = base.dec
  lastTick : s.clk.lastTick = tick
  cap : s.cap = { enabled := true, lastLevel := some level, lastTime := s.clk.total, start := some st, buf := buf }

/-- A rising edge of an idle framer begins a message at its time (rule R186). -/
theorem midMessage_of_rising (henabled : s.cap.enabled = true) (hbuf : s.cap.buf = []) (hstart : s.cap.start = none)
    (hlevel : s.cap.lastLevel ≠ some .high) :
    MidMessage (afterEdge .high tick s).cap.lastTime [] .high tick s (afterEdge .high tick s) := by
  rw [afterEdge_of_enabled henabled, frameEdge_high_of_no_start (s := sampledAt tick s) hlevel hbuf hstart]
  exact ⟨rfl, rfl, rfl, rfl, by simp [henabled, hbuf]⟩

section
variable (h : MidMessage st buf level tick base s) (hmax : base.params.maxTick = .pow32) (hd : d.toNat < 2 ^ 32)
include h

theorem MidMessage.enabled : s.cap.enabled = true := by rw [h.cap]

theorem MidMessage.alternates (tick' : Tick) : (sampledAt tick' s).cap.lastLevel ≠ some (otherLevel level) := by
  simpa [h.cap] using (otherLevel_ne level).symm

include hmax hd

/-- The time from the last edge to one that is `d` ticks later is `d`. -/
theorem MidMessage.duration_eq :
    (sampledAt (tick + d.setWidth 32) s).clk.total - (sampledAt (tick + d.setWidth 32) s).cap.lastTime = d := by
  have htotal : (sampledAt (tick + d.setWidth 32) s).clk.total = s.clk.total + d := by
    simp only [sampledAt, sampled, h.params, hmax, h.lastTick, ofNat_wrapsub32_add tick hd]
  rw [htotal, sampledAt_cap, h.cap, add_sub_cancel_left]

/-- The edge that ends the first pulse of a message commits it, if the pulse qualifies (rule R187). -/
theorem MidMessage.commit (hbuf : buf = []) (hlevel : level = .high) (hst : st = s.cap.lastTime)
    (hlong : base.cfg.startDur.toNat ≤ d.toNat) (hshort : d.toNat < base.cfg.endDur.toNat) :
    MidMessage st [d] .low (tick + d.setWidth 32) base (afterEdge .low (tick + d.setWidth 32) s) := by
  subst hbuf hlevel
  have hlast : (sampledAt (tick + d.setWidth 32) s).clk.total - st = d := hst ▸ h.duration_eq hmax hd
  rw [afterEdge_of_enabled h.enabled,
    frameEdge_low_of_pending (h.alternates _) (by simp [h.cap]) (by simp [h.cap] : _ = some st), hlast,
    if_pos (by simpa [h.cfg] using ⟨hlong, hshort⟩)]
  exact ⟨h.params, h.cfg, h.dec, rfl, by simp [h.cap]⟩

/-- A further edge appends its duration, if neither the gap nor the cap finishes the message (rules R189, R190). -/
theorem MidMessage.append (hbuf : buf ≠ []) (hgap : d.toNat ≤ base.cfg.endDur.toNat)
    (hlen : buf.length + 1 < base.params.maxLen) :
    MidMessage st (buf ++ [d]) (otherLevel level) (tick + d.setWidth 32) base
      (afterEdge (otherLevel level) (tick + d.setWidth 32) s) := by
  have hdur := h.duration_eq hmax hd
  rw [afterEdge_of_enabled h.enabled, frameEdge_of_unfinished (h.alternates _) (by simpa [h.cap] using hbuf)
    (by rwa [hdur, sampledAt_cfg, h.cfg]) (by simpa [h.cap, h.params] using hlen), hdur]
  exact ⟨h.params, h.cfg, h.dec, rfl, by simp [h.cap]⟩

/-- The finishing edge hands over the durations, enough of them, with the message's start time (rules R190 to R192). -/
theorem MidMessage.finish (hbuf : buf ≠ [])
    (hfin : base.cfg.endDur.toNat < d.toNat ∨ base.params.maxLen ≤ buf.length + 1)
    (hmin : base.cfg.minLen.toNat ≤ buf.length + 1) :
    (afterEdge (otherLevel level) (tick + d.setWidth 32) s).dec = (enqueued (buf ++ [d]) st base).dec ∧
      (afterEdge (otherLevel level) (tick + d.setWidth 32) s).cap.buf = [] := by
  have hdur := h.duration_eq hmax hd
  have hbuf' : (sampledAt (tick + d.setWidth 32) s).cap.buf = buf := by simp [h.cap]
  rw [afterEdge_of_enabled h.enabled, frameEdge_of_finished (h.alternates _) (by rwa [hbuf'])
    (by simp [h.cap] : _ = some st) (by rwa [hdur, hbuf', sampledAt_cfg, sampledAt_params, h.cfg, h.params]), hdur,
    hbuf', if_pos (by simpa [h.cfg] using hmin)]
  exact ⟨enqueued_dec_congr (s := sampledAt _ s) h.dec h.params _ _, rfl⟩

end

/-- The rest of a message, its durations up to the finishing one (rules R189 to R192). -/
theorem MidMessage.afterEdges_rest {inner : List Duration} {last : Duration} (hmax : base.params.maxTick = .pow32)
    (hlt : ∀ e ∈ inner ++ [last], e.toNat < 2 ^ 32) (hgaps : ∀ e ∈ inner, e.toNat ≤ base.cfg.endDur.toNat)
    (h : MidMessage st buf level tick base s) (hbuf : buf ≠ [])
    (hlen : buf.length + inner.length + 1 ≤ base.params.maxLen)
    (hfin : base.cfg.endDur.toNat < last.toNat ∨ buf.length + inner.length + 1 = base.params.maxLen)
    (hmin : base.cfg.minLen.toNat ≤ buf.length + inner.length + 1) :
    (afterEdges (otherLevel level) tick (inner ++ [last]) s).dec = (enqueued (buf ++ inner ++ [last]) st base).dec ∧
      (afterEdges (otherLevel level) tick (inner ++ [last]) s).cap.buf = [] := by
  induction inner generalizing buf level tick s with
  | nil =>
    rw [List.append_nil]
    exact h.finish hmax (hlt last (by simp)) hbuf (hfin.imp id (·.ge)) hmin
  | cons e inner ih =>
    simp only [List.length_cons] at hlen hfin hmin
    have hnext := h.append hmax (hlt e (by simp)) hbuf (hgaps e (by simp)) (by omega)
    have hseq : buf ++ e :: inner ++ [last] = buf ++ [e] ++ inner ++ [last] := by simp
    have hcount : (buf ++ [e]).length + inner.length + 1 = buf.length + (inner.length + 1) + 1 := by simp; omega
    rw [hseq]
    exact ih (fun x hx => hlt x (List.mem_cons_of_mem e hx)) (fun x hx => hgaps x (List.mem_cons_of_mem e hx)) hnext
      (by simp) (hcount ▸ hlen) (hcount ▸ hfin) (hcount ▸ hmin)

end

end Sys2Proof.Machine
end

section
/-! PROOF of O33: the framer captures the pulse sequence that the line sends (42_edge_capture.md rule R199). -/

namespace Sys2Proof.Machine

open Sys2Proof Sys2Proof.Claims

/-- Settles O33: the rising edge begins a message, the first pulse commits it, and the rest is by induction on the inner
durations. -/
theorem framerCapturesExactlyTheSequenceSent : Obligations.FramerCapturesExactlyTheSequenceSent := by
  intro tick first last inner s hmax henabled hbuf hstart hlevel hlong hshort hlt hgaps hlen hfin hmin rising seq sent
  have hrising : MidMessage rising.cap.lastTime [] .high tick s rising :=
    midMessage_of_rising henabled hbuf hstart hlevel
  have hcommitted := hrising.commit hmax (hlt first (by simp)) rfl rfl rfl hlong hshort
  have hcount : [first].length + inner.length + 1 = inner.length + 2 := by simp; omega
  exact hcommitted.afterEdges_rest hmax (fun e he => hlt e (List.mem_cons_of_mem first he)) hgaps (by simp)
    (hcount ▸ hlen) (hcount ▸ hfin) (hcount ▸ hmin)

end Sys2Proof.Machine
end

section
/-! PROOFS of O34 and O36: the configuration and status registers (42_edge_capture.md rules R196, R197, 30_encoding.md
rules R115, R117). -/

namespace Sys2Proof.Machine

open Sys2Proof Sys2Proof.Claims

/-! ### The port and a selector -/

section
variable {c : Command} {s : State} {reg : CfgReg}

theorem sel_eq_iff : c.sel = reg.sel ↔ selField c = reg.sel.toNat := by
  rw [← sel_toNat, BitVec.toNat_inj]

theorem reg_sel_inj {reg' : CfgReg} : reg.sel = reg'.sel ↔ reg = reg' := by
  rw [← cfgRegOf_eq_some_iff, cfgRegOf_eq_some_iff.mpr rfl, Option.some.injEq]

/-- CFG.WR of a register's selector writes it where rules R115 and R117 allow, and else is ILLEGAL. -/
theorem portStep_cfgWr (hjoin : s.chan.joinPending = false) (hop : opField c = Opcode.cfgWr.code.toNat)
    (hsel : selField c = reg.sel.toNat) :
    portStep (.cmd c) s =
      if (c.a1 = 0 ∧ c.payload = []) ∧ writeLegal reg c.a0 = true then exec (.cfgWr reg c.a0) s
      else .next (illegal s) := by
  have hcode := op_eq_code hop
  refine portStep_eq_ite (accepts_iff.mpr (.inl hjoin)) fun j => ?_
  rw [decode, decodeCommand_of_op hcode, decodeOperands, cfgWrOperands_eq_ok_iff hcode]
  simp only [encode, cmd_eq_iff, hcode, sel_eq_iff.mpr hsel, reg_sel_inj, true_and]
  constructor
  · rintro ⟨_, _, rfl, hlegal, rfl, rfl, ha1, hp⟩
    exact ⟨rfl, ⟨ha1, hp⟩, hlegal⟩
  · rintro ⟨rfl, ⟨ha1, hp⟩, hlegal⟩
    exact ⟨_, _, rfl, hlegal, rfl, rfl, ha1, hp⟩

/-- CFG.RD of a register's selector reads it if no field is set, and else is ILLEGAL. -/
theorem portStep_cfgRd (hjoin : s.chan.joinPending = false) (hop : opField c = Opcode.cfgRd.code.toNat)
    (hsel : selField c = reg.sel.toNat) :
    portStep (.cmd c) s = if noFields c then exec (.cfgRd reg) s else .next (illegal s) := by
  have hcode := op_eq_code hop
  refine portStep_eq_ite (accepts_iff.mpr (.inl hjoin)) fun j => ?_
  rw [decode, decodeCommand_of_op hcode, decodeOperands, cfgRdOperands_eq_ok_iff hcode]
  simp only [encode, plainCommand, cmd_eq_iff, hcode, sel_eq_iff.mpr hsel, reg_sel_inj, true_and]
  constructor
  · rintro ⟨_, rfl, rfl, hfields⟩
    exact ⟨rfl, hfields⟩
  · rintro ⟨rfl, hfields⟩
    exact ⟨_, rfl, rfl, hfields⟩

/-- A selector that names no register is ILLEGAL to both opcodes, whatever the other fields hold (rule R115). -/
theorem portStep_of_no_register {op : Opcode} (hjoin : s.chan.joinPending = false) (hop : opField c = op.code.toNat)
    (hcfg : op = .cfgWr ∨ op = .cfgRd) (hsel : ∀ reg : CfgReg, selField c ≠ reg.sel.toNat) :
    portStep (.cmd c) s = .next (illegal s) := by
  have hnone : cfgRegOf c.sel = none :=
    Option.eq_none_iff_forall_ne_some.mpr fun reg hreg => hsel reg (sel_eq_iff.mp (cfgRegOf_eq_some_iff.mp hreg))
  refine portStep_eq_illegal (why := .reservedSelector c.sel) (accepts_iff.mpr (.inl hjoin)) ?_
  rw [decode, decodeCommand_of_op (op_eq_code hop)]
  rcases hcfg with rfl | rfl
  · simp only [decodeOperands, cfgWrOperands, hnone]
  · simp only [decodeOperands, cfgRdOperands, hnone]

end

/-! ### The writes and the reads -/

theorem writeLegal_minLen_iff {value : Word} : writeLegal .minLen value = true ↔ value.toNat < 2 ^ 32 := by
  simp [writeLegal, regWritable, regFits, operand32]

theorem exec_cfgWr_of_legal {reg : CfgReg} {value : Word} (h : writeLegal reg value = true) (s : State) :
    exec (.cfgWr reg value) s = .next (answered .ok 0 [] { s with cfg := writeReg reg value s.cfg }) := by
  rcases execCfgWr_cases reg value s with ⟨_, ho⟩ | ⟨hillegal, _⟩
  · exact ho
  · exact absurd (h.symm.trans hillegal) (by decide)

/-- Settles O34: each writable register under its selector, the read-only ones and the rest ILLEGAL, and the writes. -/
theorem cfgWrWritesOneThreshold : Obligations.CfgWrWritesOneThreshold := by
  refine ⟨fun c s hjoin hop => ?_, fun value s => ⟨exec_cfgWr_of_legal rfl s, exec_cfgWr_of_legal rfl s,
    fun hvalue => exec_cfgWr_of_legal (writeLegal_minLen_iff.mpr hvalue) s⟩⟩
  by_cases hreg : ∃ reg : CfgReg, selField c = reg.sel.toNat
  · obtain ⟨reg, hsel⟩ := hreg
    rw [portStep_cfgWr hjoin hop hsel, hsel, ite_and]
    refine if_congr Iff.rfl ?_ rfl
    cases reg with
    | minLen => simp [writeLegal_minLen_iff, CfgReg.sel]
    | startDur | endDur | status | qcount | qdrop => rfl
  · have hother := not_exists.mp hreg
    rw [portStep_of_no_register hjoin hop (.inl rfl) hother]
    have h0 : selField c ≠ 0x00 := hother .startDur
    have h1 : selField c ≠ 0x01 := hother .endDur
    have h2 : selField c ≠ 0x02 := hother .minLen
    simp [h0, h1, h2]

/-- Settles O36: each register under its selector, and what it reads, widened to 64 bits. -/
theorem cfgRdReadsWithoutSideEffect : Obligations.CfgRdReadsWithoutSideEffect := by
  constructor
  · intro c s hjoin hop
    by_cases hreg : ∃ reg : CfgReg, selField c = reg.sel.toNat
    · obtain ⟨reg, hsel⟩ := hreg
      rw [portStep_cfgRd hjoin hop hsel, hsel]
      cases reg <;> rfl
    · have hother := not_exists.mp hreg
      rw [portStep_of_no_register hjoin hop (.inr rfl) hother]
      have h00 : selField c ≠ 0x00 := hother .startDur
      have h01 : selField c ≠ 0x01 := hother .endDur
      have h02 : selField c ≠ 0x02 := hother .minLen
      have h10 : selField c ≠ 0x10 := hother .status
      have h11 : selField c ≠ 0x11 := hother .qcount
      have h12 : selField c ≠ 0x12 := hother .qdrop
      simp [h00, h01, h02, h10, h11, h12]
  · intro s
    have hqcount : readReg .qcount s = BitVec.ofNat 64 (min s.dec.queue.length (2 ^ 32 - 1)) :=
      BitVec.setWidth_ofNat_of_le_of_lt (by decide) (by omega)
    refine ⟨rfl, rfl, ?_, ?_, ?_, ?_⟩
    · rw [BitVec.ofNat_toNat]; rfl
    · rw [BitVec.ofNat_toNat]; rfl
    · rw [← hqcount]; rfl
    · rw [BitVec.ofNat_toNat]; rfl

end Sys2Proof.Machine
end

section
/-! LAWS. States that differ only in queued start times are those with one image under `forgetStartTimes`. No operation
and no agent reads a start time, so each one may as well run on the image (43_decoder.md rule R247). -/

namespace Sys2Proof.Machine

open Sys2Proof Sys2Proof.Claims

/-! ### Forgetting -/

theorem forgetStartTimes_idem (s : State) : forgetStartTimes (forgetStartTimes s) = forgetStartTimes s := by
  simp [forgetStartTimes]

/-- What commutes with forgetting may run on the image. -/
theorem forgetStartTimes_of_eq {s t : State} (h : t = forgetStartTimes s) :
    forgetStartTimes t = forgetStartTimes s := by
  rw [h, forgetStartTimes_idem]

@[simp] theorem forgetStartTimes_length (s : State) : (forgetStartTimes s).dec.queue.length = s.dec.queue.length :=
  List.length_map _

/-- An outcome with the start times queued in its next state forgotten. -/
def forgetNext : Host.Outcome State Fault Refusal → Host.Outcome State Fault Refusal
  | .next t => .next (forgetStartTimes t)
  | .fault f => .fault f
  | .refused r => .refused r

theorem forgetNext_idem (o : Host.Outcome State Fault Refusal) : forgetNext (forgetNext o) = forgetNext o := by
  cases o with
  | next t => exact congrArg Host.Outcome.next (forgetStartTimes_idem t)
  | fault f => rfl
  | refused r => rfl

/-- A test that does not read the start times is the same on the image, so the two branches decide. -/
theorem forget_ite_congr {α : Type} {forget : α → α} {c : Prop} [Decidable c] {a a' b b' : α}
    (ha : forget a' = forget a) (hb : forget b' = forget b) :
    forget (if c then a' else b') = forget (if c then a else b) := by
  split
  · exact ha
  · exact hb

/-! ### The queue -/

/-- Room in the queue is a matter of its length, and the start time of a new entry is itself forgotten. -/
theorem decEnqueue_forgetStartTimes (seq : List Duration) (t0 : Micros) (s : State) :
    forgetStartTimes (decEnqueue seq t0 (forgetStartTimes s)) = forgetStartTimes (decEnqueue seq t0 s) := by
  have hdrop : forgetStartTimes (countDrop (forgetStartTimes s)) = forgetStartTimes (countDrop s) :=
    forgetStartTimes_idem (countDrop s)
  have happend : forgetStartTimes (appendEntry ⟨seq, t0⟩ (forgetStartTimes s)) =
      forgetStartTimes (appendEntry ⟨seq, t0⟩ s) := by
    simp [forgetStartTimes, appendEntry, signalQueue]
  rw [decEnqueue, forgetStartTimes_length]
  exact forget_ite_congr hdrop (forget_ite_congr happend hdrop)

theorem enqueueStatus_forgetStartTimes (s : State) : enqueueStatus (forgetStartTimes s) = enqueueStatus s := by
  rw [enqueueStatus, forgetStartTimes_length]
  rfl

/-! ### The framing step -/

theorem handOff_forgetStartTimes (buf : List Duration) (time : Micros) (s : State) :
    forgetStartTimes (handOff buf time (forgetStartTimes s)) = forgetStartTimes (handOff buf time s) :=
  forget_ite_congr (decEnqueue_forgetStartTimes buf (messageStart buf time s) s) (forgetStartTimes_idem s)

theorem idleEdge_forgetStartTimes (level : Level) (time : Micros) (s : State) :
    idleEdge level time (forgetStartTimes s) = forgetStartTimes (idleEdge level time s) := by
  have hstart : (forgetStartTimes s).cap.start = s.cap.start := rfl
  unfold idleEdge
  rw [hstart]
  cases level <;> cases s.cap.start
  case low.some => simp only [apply_ite forgetStartTimes]; rfl
  all_goals rfl

theorem accumEdge_forgetStartTimes (level : Level) (time : Micros) (s : State) :
    forgetStartTimes (accumEdge level time (forgetStartTimes s)) = forgetStartTimes (accumEdge level time s) :=
  forget_ite_congr (congrArg (restartAt level time) (handOff_forgetStartTimes _ time s)) (forgetStartTimes_of_eq rfl)

theorem frameEdge_forgetStartTimes (level : Level) (time : Micros) (s : State) :
    forgetStartTimes (frameEdge level time (forgetStartTimes s)) = forgetStartTimes (frameEdge level time s) := by
  have hidle : forgetStartTimes (idleEdge level time (forgetStartTimes s)) =
      forgetStartTimes (idleEdge level time s) :=
    forgetStartTimes_of_eq (idleEdge_forgetStartTimes level time s)
  exact forget_ite_congr (forgetStartTimes_idem s)
    (forget_ite_congr (congrArg (recordEdge level time) hidle)
      (congrArg (recordEdge level time) (accumEdge_forgetStartTimes level time s)))

/-! ### The operations -/

/-- Of the queue a register shows the length alone (42_edge_capture.md rule R197). -/
theorem readReg_forgetStartTimes (reg : CfgReg) (s : State) : readReg reg (forgetStartTimes s) = readReg reg s := by
  cases reg with
  | qcount => rw [readReg, qcountWord, forgetStartTimes_length]; rfl
  | startDur | endDur | minLen | status | qdrop => rfl

theorem execDecSubmit_forgetStartTimes (t0 : Micros) (seq : List Duration) (s : State) :
    forgetNext (execDecSubmit t0 seq (forgetStartTimes s)) = forgetNext (execDecSubmit t0 seq s) := by
  rw [execDecSubmit, enqueueStatus_forgetStartTimes]
  exact forget_ite_congr
    (congrArg (fun u => Host.Outcome.next (respond (enqueueStatus s) 0 [] u)) (decEnqueue_forgetStartTimes seq t0 s))
    (congrArg Host.Outcome.next (forgetStartTimes_of_eq rfl))

theorem execEdge_forgetStartTimes (level : Level) (tick : Tick) (s : State) :
    forgetNext (execEdge level tick (forgetStartTimes s)) = forgetNext (execEdge level tick s) :=
  forget_ite_congr
    (congrArg Host.Outcome.next (frameEdge_forgetStartTimes level (clkEdgeTime tick s) (sampleClock s)))
    (congrArg Host.Outcome.next (forgetStartTimes_idem s))

/-- DEC.SUBMIT and an edge may queue a start time of their own; every other operation commutes with forgetting. -/
theorem exec_forgetStartTimes_of_no_enqueue {i : Instr} (s : State) (h : .queue ∉ footprint i) :
    exec i (forgetStartTimes s) = forgetNext (exec i s) := by
  cases i with
  | clkStart refTick | clkNow | clkConv tick | clkStop | capStart | cfgWr reg value | decShutdown =>
    simp only [exec, execClkStart, execClkNow, execClkConv, execClkStop, execCapStart, execCfgWr, execDecShutdown,
      apply_ite forgetNext]
    rfl
  | capStop => rfl
  | cfgRd reg =>
    exact congrArg (fun v => Host.Outcome.next (respond .ok v [] (forgetStartTimes s))) (readReg_forgetStartTimes reg s)
  | encEncode chars =>
    have hparams : (forgetStartTimes s).params = s.params := rfl
    rw [exec, exec, execEncEncode, execEncEncode, hparams]
    cases encodeChars s.params chars <;> rw [apply_ite forgetNext] <;> rfl
  | resPop =>
    have hres : (forgetStartTimes s).chan.res = s.chan.res := rfl
    rw [exec, exec, execResPop, execResPop, hres]
    cases s.chan.res <;> rfl
  | decSubmit t0 seq | edge level tick => exact absurd (by simp [footprint]) h

theorem exec_forgetStartTimes (i : Instr) (s : State) :
    forgetNext (exec i (forgetStartTimes s)) = forgetNext (exec i s) := by
  by_cases hqueue : .queue ∈ footprint i
  · cases i with
    | decSubmit t0 seq => exact execDecSubmit_forgetStartTimes t0 seq s
    | edge level tick => exact execEdge_forgetStartTimes level tick s
    | _ => simp [footprint] at hqueue
  · rw [exec_forgetStartTimes_of_no_enqueue s hqueue, forgetNext_idem]

/-! ### The agents -/

theorem enabled_forgetStartTimes (a : AgentStep) (s : State) : enabled a (forgetStartTimes s) = enabled a s := by
  cases a with
  | workerDecode | workerIdle => simp [enabled, forgetStartTimes]
  | clkrTimeout | clkrWake | workerWake | workerExit | joinDone => rfl

/-- The record of a frame is read off its sequence (43_decoder.md rule R233). -/
theorem workerDecode_forgetStartTimes (s : State) :
    workerDecode (forgetStartTimes s) = forgetStartTimes (workerDecode s) := by
  rcases workerDecode_cases s with ⟨hqueue, h⟩ | ⟨e, rest, hqueue, h⟩ <;> rw [h]
  · simp [workerDecode, forgetStartTimes, hqueue]
  · simp [workerDecode, forgetStartTimes, hqueue, emit]

theorem agentStep_forgetStartTimes (a : AgentStep) (s : State) :
    agentStep a (forgetStartTimes s) = forgetStartTimes (agentStep a s) := by
  have hperform : perform a (forgetStartTimes s) = forgetStartTimes (perform a s) := by
    cases a with
    | clkrTimeout | clkrWake | workerWake =>
      simp only [perform, clkrTimeout, clkrWake, workerWake, apply_ite forgetStartTimes]
      rfl
    | workerDecode => exact workerDecode_forgetStartTimes s
    | workerIdle | workerExit | joinDone => rfl
  rw [agentStep, enabled_forgetStartTimes, hperform, agentStep, apply_ite forgetStartTimes]

/-! ### Steps -/

theorem portStep_forgetStartTimes (p : PortWord) (s : State) :
    forgetNext (portStep p (forgetStartTimes s)) = forgetNext (portStep p s) := by
  have haccepts : accepts p (forgetStartTimes s) = accepts p s := by cases p <;> rfl
  have hparams : (forgetStartTimes s).params = s.params := rfl
  rw [portStep, portStep, haccepts, hparams]
  cases decode s.params p with
  | ok i => exact forget_ite_congr (exec_forgetStartTimes i s) (congrArg Host.Outcome.next (forgetStartTimes_idem s))
  | error why =>
    exact forget_ite_congr (congrArg Host.Outcome.next (forgetStartTimes_of_eq rfl))
      (congrArg Host.Outcome.next (forgetStartTimes_idem s))

theorem step_forgetStartTimes (s : State) : forgetNext (step (forgetStartTimes s)) = forgetNext (step s) := by
  have hnext : nextStimulus (forgetStartTimes s) = nextStimulus s := rfl
  rw [step, step, hnext]
  cases (nextStimulus s).action with
  | port p => exact portStep_forgetStartTimes p (takeStimulus s)
  | agent a =>
    have hagent := agentStep_forgetStartTimes a (takeStimulus s)
    exact congrArg Host.Outcome.next (forgetStartTimes_of_eq hagent)
  | reset => rfl

end Sys2Proof.Machine
end

section
/-! PROOF of O60: the start time of a queued frame is carried and never read (43_decoder.md rule R247). -/

namespace Sys2Proof.Machine

open Sys2Proof Sys2Proof.Claims

/-- Settles O60: both states step as their common image does, up to the start times in the queue. -/
theorem startTimesInfluenceNothing : Obligations.StartTimesInfluenceNothing := by
  intro s s' t t' hsame hstep hstep'
  have hnext : forgetNext (step s) = forgetNext (step s') := by
    rw [← step_forgetStartTimes s, hsame, step_forgetStartTimes s']
  rw [hstep, hstep'] at hnext
  exact Host.Outcome.next.inj hnext

end Sys2Proof.Machine
end

section
/-! LAWS. The decoder's commands and steps over named fields: the enqueue's status, the submit's encoding, what the
worker needs and leaves, and that a worker told to stop can exit (43_decoder.md rules R230 to R236). -/

namespace Sys2Proof.Machine

open Sys2Proof Sys2Proof.Claims

section
variable {s : State}

/-! ### The enqueue and DEC.SUBMIT -/

theorem enqueueStatus_eq_enqueueAnswer (s : State) : enqueueStatus s = enqueueAnswer s := by
  rw [enqueueAnswer, full_eq_not_hasRoom]
  rcases decEnqueue_cases [] 0 s with ⟨hstop, h, _⟩ | ⟨hstop, hroom, h, _⟩ | ⟨hstop, hroom, h, _⟩ <;> rw [h, hstop]
  · rfl
  · rw [hroom]; rfl
  · rw [hroom]; rfl

/-- The port and DEC.SUBMIT (30_encoding.md rules R112, R114, R117). -/
theorem portStep_decSubmit {c : Command} (hjoin : s.chan.joinPending = false)
    (hop : opField c = Opcode.decSubmit.code.toNat) :
    portStep (.cmd c) s =
      if selField c = 0 ∧ c.a1 = 0 ∧ c.payload.length ≤ s.params.maxLen then exec (.decSubmit c.a0 c.payload) s
      else .next (illegal s) := by
  have hcode := op_eq_code hop
  refine portStep_eq_ite (accepts_iff.mpr (.inl hjoin)) fun j => ?_
  rw [decode, decodeCommand_of_op hcode, decodeOperands, submitOperands_eq_ok_iff hcode]
  simp only [encode, cmd_eq_iff, hcode, true_and, sel_eq_zero_iff, submitLegal, decide_eq_true_eq]
  constructor
  · rintro ⟨_, _, hj, hlen, hsel, rfl, ha1, rfl⟩
    exact ⟨hj, hsel, ha1, hlen⟩
  · rintro ⟨hj, hsel, ha1, hlen⟩
    exact ⟨_, _, hj, hlen, hsel, rfl, ha1, rfl⟩

/-! ### The worker and the result channel -/

theorem hasRoom_of_withinDepth_succ {d : Depth} {n : Nat} (h : withinDepth d (n + 1)) : hasRoom d n = true := by
  cases d with
  | unbounded => exact hasRoom_unbounded n
  | bounded p => rw [hasRoom_bounded]; exact decide_eq_true h

/-- WORKER.DECODE takes the head of the queue (rule R233). -/
theorem workerDecode_of_cons {e : QueueEntry} {rest : List QueueEntry} (h : s.dec.queue = e :: rest) :
    workerDecode s =
      { s with
        dec := { s.dec with queue := rest }
        chan := { s.chan with res := s.chan.res ++ [decodeFrame s.params e.seq] } } := by
  rw [workerDecode, h]
  rfl

/-- RES.POP answers the head of the result channel (rule R252). -/
theorem exec_resPop_of_cons {r : ResultRec} {rest : List ResultRec} (h : s.chan.res = r :: rest) :
    exec .resPop s =
      .next (answered .ok ((recordCode r).setWidth 64) ((recordDigits r).map digitWord)
        { s with chan := { s.chan with res := rest } }) := by
  rw [exec, execResPop, h]
  rfl

/-! ### Runs of agents -/

theorem agentRun_cons_of_enabled {a : AgentStep} {as : List AgentStep} (h : enabled a s = true) :
    agentRun (a :: as) s = agentRun as (perform a s) := if_pos h

theorem agentRun_append (as bs : List AgentStep) (s : State) :
    agentRun (as ++ bs) s = (agentRun as s).bind (agentRun bs) := by
  induction as generalizing s with
  | nil => rfl
  | cons a as ih =>
    rw [List.cons_append, agentRun, agentRun]
    split
    · exact ih (perform a s)
    · rfl

/-- A worker told to stop exits at its wake or while it drains, before any further frame (rules R232, R235, R236). -/
theorem worker_can_exit_of_stop (hinv : s.Inv) (hstop : s.dec.stop = true) :
    ∃ as t, as.length ≤ 1 ∧ agentRun as s = some t ∧ t.dec.worker = .exited ∧ t.chan = s.chan := by
  cases hworker : s.dec.worker with
  | waiting =>
    have hwoken := hinv.stopWakes hstop (by simp [hworker])
    have hwake : enabled .workerWake s = true := by simp [enabled, hworker, hwoken]
    refine ⟨[.workerWake], _, Nat.le_refl _, agentRun_cons_of_enabled hwake, ?_⟩
    rcases workerWake_cases s with ⟨_, h⟩ | ⟨hrunning, _⟩
    · rw [perform, h]
      exact ⟨rfl, rfl⟩
    · exact absurd (hstop.symm.trans hrunning) (by decide)
  | draining =>
    have hexit : enabled .workerExit s = true := by simp [enabled, hworker, hstop]
    exact ⟨[.workerExit], _, Nat.le_refl _, agentRun_cons_of_enabled hexit, rfl, rfl⟩
  | exited => exact ⟨[], s, Nat.zero_le _, rfl, hworker, rfl⟩

end

end Sys2Proof.Machine
end

section
/-! PROOFS of O38 to O44 and O46: the queue, the worker and the result channel (43_decoder.md rules R230 to R236 and R248
to R252). -/

namespace Sys2Proof.Machine

open Sys2Proof Sys2Proof.Claims

/-- Settles O38: the effect and the status, each by the three ways of an enqueue. -/
theorem enqueueAppendsSignalsOrCountsADrop : Obligations.EnqueueAppendsSignalsOrCountsADrop := fun seq t0 s =>
  ⟨decEnqueue_eq_enqueued seq t0 s, enqueueStatus_eq_enqueueAnswer s⟩

/-- Settles O39: the submit's form, and the enqueue of every sequence that is not too long. -/
theorem decSubmitEnqueuesAFrame : Obligations.DecSubmitEnqueuesAFrame := by
  refine ⟨fun _ _ => portStep_decSubmit, fun t0 seq s hlen => ?_⟩
  rcases execDecSubmit_cases t0 seq s with ⟨_, h⟩ | ⟨hillegal, _⟩
  · rw [← decEnqueue_eq_enqueued, ← enqueueStatus_eq_enqueueAnswer]
    exact h
  · exact absurd hlen (of_decide_eq_false hillegal)

/-- Settles O40: the form without operands, and the two cases of DEC.SHUTDOWN. -/
theorem decShutdownStopsTheWorkerAndHoldsItsResponse :
    Obligations.DecShutdownStopsTheWorkerAndHoldsItsResponse := by
  refine ⟨fun _ _ => portStep_noOperands (op := .decShutdown) fun _ _ => rfl, fun s => ?_⟩
  rcases execDecShutdown_cases s with ⟨hexited, h⟩ | ⟨hrunning, h⟩
  · rw [if_pos hexited]
    exact h
  · rw [if_neg hrunning]
    exact h

/-- Settles O41: each step's condition and effect; a decode with an empty queue is not enabled. -/
theorem workerStepsFollowTheirRules : Obligations.WorkerStepsFollowTheirRules := by
  refine fun s => ⟨stepIs_of_perform rfl ?_, stepIs_of_perform ?_ rfl, stepIs_of_perform rfl rfl, fun hempty => ?_,
    fun e rest hqueue => stepIs_of_perform ?_ (workerDecode_of_cons hqueue)⟩
  · rcases workerWake_cases s with ⟨hstop, h⟩ | ⟨hstop, h⟩ <;> rw [perform, h, hstop] <;> rfl
  · cases hqueue : s.dec.queue <;> simp [enabled, hqueue]
  · rcases agentStep_cases .workerDecode s with ⟨henabled, _⟩ | ⟨_, h⟩
    · obtain ⟨_, hne, _⟩ := enabled_workerDecode_iff.mp henabled
      exact absurd hempty hne
    · exact h
  · simp [enabled, hqueue, full_eq_not_hasRoom]

/-- Settles O42: by induction on the number of frames decoded before the exit. -/
theorem anyPrefixMayBeDecodedAtShutdown : Obligations.AnyPrefixMayBeDecodedAtShutdown := by
  intro k
  induction k with
  | zero =>
    intro s hworker hstop _ _
    have hexit : enabled .workerExit s = true := by simp [enabled, hworker, hstop]
    rw [List.replicate_zero, List.nil_append, agentRun_cons_of_enabled hexit]
    simp [agentRun, perform, workerExit, setWorker]
  | succ k ih =>
    intro s hworker hstop hlen hroom
    obtain ⟨e, rest, hqueue⟩ := List.exists_cons_of_length_pos (Nat.zero_lt_of_lt hlen)
    have hdecode : enabled .workerDecode s = true := enabled_workerDecode_iff.mpr
      ⟨hworker, by simp [hqueue], hasRoom_of_withinDepth_succ (withinDepth_mono hroom (by omega))⟩
    rw [List.replicate_succ, List.cons_append, agentRun_cons_of_enabled hdecode, perform, workerDecode_of_cons hqueue]
    refine (ih _ ?_ ?_ ?_ ?_).trans ?_
    · exact hworker
    · exact hstop
    · simpa [hqueue] using hlen
    · simpa [Nat.add_assoc, Nat.add_comm 1] using hroom
    · simp [hqueue]

/-- Settles O43: the worker exits in at most one step, and then the join completes. -/
theorem shutdownCanAlwaysBeAnswered : Obligations.ShutdownCanAlwaysBeAnswered := by
  intro s hinv hjoin
  obtain ⟨as, t, hlen, hrun, hexited, hchan⟩ := worker_can_exit_of_stop hinv (hinv.joinStopped hjoin)
  have hdone : enabled .joinDone t = true := by simp [enabled, hchan, hjoin, hexited]
  have hres : t.chan.res = s.chan.res := congrArg ChanState.res hchan
  refine ⟨as ++ [.joinDone], joinDone t, by simpa using hlen, ?_, hexited, rfl, rfl, hres⟩
  rw [agentRun_append, hrun]
  exact agentRun_cons_of_enabled hdone

/-- Settles O44: the completion's condition and effect. -/
theorem joinCompletionAnswersOk : Obligations.JoinCompletionAnswersOk := fun _ => stepIs_of_perform rfl rfl

/-- Settles O46: the form without operands, and RES.POP on an empty channel and on each kind of record. -/
theorem resPopTakesTheOldestRecord : Obligations.ResPopTakesTheOldestRecord := by
  refine ⟨fun _ _ => portStep_noOperands (op := .resPop) fun _ _ => rfl, fun s hempty => ?_,
    fun ds rest s hres => exec_resPop_of_cons hres, fun e rest s hres => ?_⟩
  · rcases execResPop_cases s with ⟨_, h⟩ | ⟨_, _, hres, _⟩
    · exact h
    · exact absurd (hempty.symm.trans hres) (List.cons_ne_nil _ _).symm
  · rw [exec_resPop_of_cons hres]
    cases e <;> rfl

end Sys2Proof.Machine
end

section
/-! LAWS. The decode function over offsets: a suffix of the symbols stands for the offset at which it begins, and a scan
by offsets is the scan of the suffix's pairs (43_decoder.md rules R240 to R244). -/

namespace Sys2Proof.Machine

open Sys2Proof Sys2Proof.Claims

/-! ### Step 2 -/

/-- Every duration is classified, or one is not and the frame is rejected (rule R240). -/
theorem classifyAll_eq (b : Bounds) (seq : List Duration) :
    classifyAll b seq =
      if seq.any (fun d => (classify b d).isNone) then none else some (seq.filterMap (classify b)) := by
  induction seq with
  | nil => rfl
  | cons d ds ih =>
    rw [classifyAll, ih]
    cases hd : classify b d with
    | none => simp [hd]
    | some y => by_cases hds : ds.any (fun d => (classify b d).isNone) = true <;> simp [hd, hds]

/-! ### Symbols at offsets -/

section
variable {α : Type} {l rest : List α} {x y : α} {o : Nat}

theorem getElem?_of_drop_eq_pair (h : l.drop o = x :: y :: rest) :
    l[o]? = some x ∧ l[o + 1]? = some y ∧ l.drop (o + 2) = rest ∧ o + 2 ≤ l.length := by
  have hlen : (l.drop o).length = rest.length + 2 := by rw [h]; rfl
  rw [List.length_drop] at hlen
  refine ⟨?_, ?_, ?_, by omega⟩
  · rw [← Nat.add_zero o, ← List.getElem?_drop, h]; rfl
  · rw [← List.getElem?_drop, h]; rfl
  · rw [← List.drop_drop, h]; rfl

theorem length_lt_of_drop_length_lt (h : l.drop o = rest) (hrest : rest.length < 2) : l.length < o + 2 := by
  rw [← h, List.length_drop] at hrest
  omega

end

/-- The pairs from the pair's number `n` on begin at the even offset `2 * n`. -/
theorem drop_symbolPairs (n : Nat) (l : List Symbol) : (symbolPairs l).drop n = symbolPairs (l.drop (2 * n)) := by
  induction n generalizing l with
  | zero => rfl
  | succ n ih =>
    match l with
    | [] => simp [symbolPairs]
    | [a] => simp [symbolPairs, Nat.mul_add]
    | a :: b :: rest => simpa [symbolPairs, Nat.mul_add] using ih rest

/-! ### Step 3 -/

/-- What remains after the start marker are the pairs behind it (rule R241). -/
theorem rest_eq_drop_of_findStart {ps rest : List (Symbol × Symbol)} {k : Nat} (h : findStart ps = some (k, rest)) :
    rest = ps.drop (k + 1) := by
  induction ps generalizing k with
  | nil => cases h
  | cons p ps ih =>
    rw [findStart] at h
    split at h
    · cases h; rfl
    · cases hps : findStart ps with
      | none => rw [hps] at h; cases h
      | some r =>
        rw [hps] at h
        cases h
        exact ih hps

theorem startOffset_of_no_pair {sym : List Symbol} {o : Nat} (h : sym.length < o + 2) (fuel : Nat) :
    startOffset sym fuel o = none := by
  cases fuel with
  | zero => rfl
  | succ fuel => exact if_neg (Nat.not_le.mpr h)

/-- The scan by offsets finds the start marker where the scan of the pairs does (rule R241). -/
theorem startOffset_eq {sym rest : List Symbol} {fuel o : Nat} (hrest : sym.drop o = rest)
    (hfuel : rest.length ≤ fuel) :
    startOffset sym fuel o = (findStart (symbolPairs rest)).map fun r => o + 2 * r.1 := by
  induction rest using symbolPairs.induct generalizing fuel o with
  | case1 a b rest ih =>
    obtain ⟨ha, hb, hdrop, hlen⟩ := getElem?_of_drop_eq_pair hrest
    obtain ⟨fuel, rfl⟩ := Nat.exists_eq_add_one.mpr (Nat.zero_lt_of_lt hfuel)
    have hih := ih hdrop (Nat.le_of_succ_le (Nat.le_of_succ_le_succ hfuel))
    rw [startOffset, if_pos hlen, ha, hb, symbolPairs, findStart, hih]
    by_cases hmark : a = .short ∧ b = .extraLong
    · simp [hmark, isStartMarker]
    · cases findStart (symbolPairs rest) with
      | none => simp [hmark, isStartMarker]
      | some r => simp [hmark, isStartMarker]; omega
  | case2 a => exact startOffset_of_no_pair (length_lt_of_drop_length_lt hrest (by simp)) fuel
  | case3 => exact startOffset_of_no_pair (length_lt_of_drop_length_lt hrest (by simp)) fuel

/-- The pseudocode's scan begins at offset 0 and gives the start marker's pair as an offset (rule R241). -/
theorem startOffset_zero (sym : List Symbol) :
    startOffset sym sym.length 0 = (findStart (symbolPairs sym)).map fun r => 2 * r.1 := by
  rw [startOffset_eq (o := 0) List.drop_zero (Nat.le_refl _)]
  simp only [Nat.zero_add]

/-! ### Step 4 -/

theorem subBitsFrom_of_no_pair {sym : List Symbol} {o : Nat} (h : sym.length < o + 2) (fuel : Nat)
    (bits : List SubBit) :
    subBitsFrom sym fuel o bits = .error .endMarkerNotFound := by
  cases fuel with
  | zero => rfl
  | succ fuel => exact if_neg (Nat.not_le.mpr h)

/-- One pair of the scan by offsets, by the pair's meaning (rules R102, R243). -/
theorem subBitsFrom_of_pair {sym : List Symbol} {o : Nat} {a b : Symbol} (ha : sym[o]? = some a)
    (hb : sym[o + 1]? = some b) (hlen : o + 2 ≤ sym.length) (fuel : Nat) (bits : List SubBit) :
    subBitsFrom sym (fuel + 1) o bits =
      match pairMeaning (a, b) with
      | .subBit x => subBitsFrom sym fuel (o + 2) (bits ++ [x])
      | .endMarker => .ok bits
      | .invalid => .error .invalidSignals := by
  rw [subBitsFrom, if_pos hlen, ha, hb]
  cases a <;> cases b <;> rfl

/-- The scan by offsets collects what the scan of the pairs does, behind the sub-bits it already has (rule R243). -/
theorem subBitsFrom_eq {sym rest : List Symbol} {fuel o : Nat} (hrest : sym.drop o = rest)
    (hfuel : rest.length ≤ fuel) (bits : List SubBit) :
    subBitsFrom sym fuel o bits = (scanSubBits (symbolPairs rest)).map (bits ++ ·) := by
  induction rest using symbolPairs.induct generalizing fuel o bits with
  | case1 a b rest ih =>
    obtain ⟨ha, hb, hdrop, hlen⟩ := getElem?_of_drop_eq_pair hrest
    obtain ⟨fuel, rfl⟩ := Nat.exists_eq_add_one.mpr (Nat.zero_lt_of_lt hfuel)
    rw [subBitsFrom_of_pair ha hb hlen, symbolPairs, scanSubBits]
    cases pairMeaning (a, b) with
    | subBit x =>
      have hih := ih hdrop (Nat.le_of_succ_le (Nat.le_of_succ_le_succ hfuel)) (bits ++ [x])
      simp only [hih]
      cases scanSubBits (symbolPairs rest) <;> simp [Except.map]
    | endMarker => simp [Except.map]
    | invalid => rfl
  | case2 a => exact subBitsFrom_of_no_pair (length_lt_of_drop_length_lt hrest (by simp)) fuel bits
  | case3 => exact subBitsFrom_of_no_pair (length_lt_of_drop_length_lt hrest (by simp)) fuel bits

/-- The pseudocode's scan begins just past the start marker, at its first pair (rule R243). -/
theorem subBitsFrom_of_findStart {sym : List Symbol} {rest : List (Symbol × Symbol)} {k : Nat}
    (h : findStart (symbolPairs sym) = some (k, rest)) :
    subBitsFrom sym sym.length (2 * k + 2) [] = scanSubBits rest := by
  rw [subBitsFrom_eq rfl (by simp), rest_eq_drop_of_findStart h, drop_symbolPairs]
  cases scanSubBits (symbolPairs (sym.drop (2 * (k + 1)))) <;> rfl

/-! ### Step 5 -/

/-- Digit `k` is the one of the sub-bits `2 * k` and `2 * k + 1` (rules R103, R244). -/
theorem pairDigits_eq (bits : List SubBit) :
    pairDigits bits = (List.range (bits.length / 2)).map (digitAt bits) := by
  induction bits using pairDigits.induct with
  | case1 a b rest ih =>
    have hlen : (a :: b :: rest).length / 2 = rest.length / 2 + 1 := Nat.add_div_right _ Nat.two_pos
    have hhead : quat a b = digitAt (a :: b :: rest) 0 := by cases a <;> cases b <;> rfl
    rw [pairDigits, ih, hlen, List.range_succ_eq_map, List.map_cons, List.map_map, hhead]
    rfl
  | case2 a => simp [pairDigits]
  | case3 => simp [pairDigits]

end Sys2Proof.Machine
end

section
/-! PROOF of O48: the decode function is the pseudocode of 43_decoder.md rule R238. -/

namespace Sys2Proof.Machine

open Sys2Proof Sys2Proof.Claims

/-- Settles O48: step by step, the start marker's pair `k` at offset `2 * k` and the sub-bits from the pair after it. -/
theorem decodeFollowsThePseudocode : Obligations.DecodeFollowsThePseudocode := by
  intro p seq
  unfold decodeFrame decodeByOffsets
  by_cases hshort : seq.length < p.decMinLen
  · rw [if_pos hshort, if_pos hshort]
  rw [if_neg hshort, if_neg hshort, classifyAll_eq]
  by_cases hgap : (seq.any fun d => (classify p.bounds d).isNone) = true
  · rw [if_pos hgap, if_pos hgap]
  rw [if_neg hgap, if_neg hgap]
  generalize seq.filterMap (classify p.bounds) = sym
  simp only [startOffset_zero]
  cases hfind : findStart (symbolPairs sym) with
  | none => rfl
  | some r =>
    obtain ⟨k, rest⟩ := r
    have hzero : 2 * k = 0 ↔ k = 0 := by omega
    simp only [Option.map_some, subBitsFrom_of_findStart hfind, hzero]
    cases scanSubBits rest with
    | error e => rfl
    | ok bits => simp only [pairDigits_eq]

end Sys2Proof.Machine
end

section
/-! LAWS. The encoder (44_encoder.md rule R281): which characters it takes, its frame as symbols, in which every even
symbol is Short and the odd ones carry the markers and the sub-bits of the message, and how the port reads its command. -/

namespace Sys2Proof.Machine

open Sys2Proof Sys2Proof.Claims

/-! ### Characters -/

/-- A character is rejected when its code is below that of '0' or above that of '3' (rule R281). -/
theorem isDigitChar_eq_false_iff {z : Nat} {c : CharCode} :
    isDigitChar z c = false ↔ c.toNat < z ∨ z + 3 < c.toNat := by
  simp only [isDigitChar, decide_eq_false_iff_not]
  omega

theorem isDigitChar_iff {z : Nat} {c : CharCode} : isDigitChar z c = true ↔ z ≤ c.toNat ∧ c.toNat ≤ z + 3 :=
  decide_eq_true_iff

theorem isDigitChar_digitChar {z : Nat} (hz : z + 3 < 256) (d : Digit) : isDigitChar z (digitChar z d) = true := by
  have hd := d.isLt
  rw [isDigitChar_iff, digitChar, BitVec.toNat_ofNat]
  omega

/-- The digit's value is the distance of its code from the code of '0' (30_encoding.md rules R108, R109). -/
theorem charDigit_digitChar {z : Nat} (hz : z + 3 < 256) (d : Digit) : charDigit z (digitChar z d) = d := by
  have hd := d.isLt
  apply Fin.ext
  simp only [charDigit, digitChar, BitVec.toNat_ofNat, Fin.val_ofNat]
  omega

/-- The scan is the library's search for the first character that is not a digit's. -/
theorem firstInvalid_eq_findIdx? (z : Nat) (cs : List CharCode) :
    firstInvalid z cs = cs.findIdx? fun c => !isDigitChar z c := by
  induction cs with
  | nil => rfl
  | cons c cs ih =>
    rw [firstInvalid, ih, List.findIdx?_cons]
    cases isDigitChar z c with
    | false => rfl
    | true => cases cs.findIdx? fun c => !isDigitChar z c <;> rfl

theorem firstInvalid_eq_some_iff {z i : Nat} {cs : List CharCode} :
    firstInvalid z cs = some i ↔
      (∃ c, cs[i]? = some c ∧ isDigitChar z c = false) ∧ ∀ j < i, ∃ c, cs[j]? = some c ∧ isDigitChar z c = true := by
  rw [firstInvalid_eq_findIdx?, List.findIdx?_eq_some_iff_getElem]
  simp only [List.getElem?_eq_some_iff, Bool.not_eq_true', Bool.not_eq_false]
  constructor
  · rintro ⟨hi, hbad, hgood⟩
    exact ⟨⟨_, ⟨hi, rfl⟩, hbad⟩, fun j hj => ⟨_, ⟨hj.trans hi, rfl⟩, hgood j hj⟩⟩
  · rintro ⟨⟨_, ⟨hi, rfl⟩, hbad⟩, hgood⟩
    refine ⟨hi, hbad, fun j hj => ?_⟩
    obtain ⟨_, ⟨_, rfl⟩, hok⟩ := hgood j hj
    exact hok

theorem firstInvalid_digitChars {z : Nat} (hz : z + 3 < 256) (ds : List Digit) :
    firstInvalid z (digitChars z ds) = none := by
  rw [firstInvalid_eq_findIdx?, List.findIdx?_eq_none_iff]
  intro c hc
  obtain ⟨d, _, rfl⟩ := List.mem_map.mp hc
  exact congrArg not (isDigitChar_digitChar hz d)

theorem encodeChars_eq_error_iff {p : Params} {cs : List CharCode} {i : Nat} :
    encodeChars p cs = .error i ↔ firstInvalid p.charZero cs = some i := by
  unfold encodeChars
  cases firstInvalid p.charZero cs <;> simp

/-- A string of digits is encoded as these digits. -/
theorem encodeChars_digitChars {p : Params} (hz : p.charZero + 3 < 256) (ds : List Digit) :
    encodeChars p (digitChars p.charZero ds) = .ok (encodeDigits p.pulses ds) := by
  have hdigits : (digitChars p.charZero ds).map (charDigit p.charZero) = ds :=
    (List.map_map ..).trans (List.map_id'' (charDigit_digitChar hz) ds)
  rw [encodeChars, firstInvalid_digitChars hz, hdigits]

/-! ### Two elements for each one -/

/-- Two elements in place of each one: a Short and the symbol after it, or the two sub-bits of a digit. -/
def twoEach {α β : Type} (f g : α → β) (xs : List α) : List β := xs.flatMap fun x => [f x, g x]

section
variable {α β γ : Type} (f g : α → β)

@[simp] theorem twoEach_nil : twoEach f g [] = [] := rfl

@[simp] theorem twoEach_cons (x : α) (xs : List α) : twoEach f g (x :: xs) = f x :: g x :: twoEach f g xs := rfl

@[simp] theorem twoEach_append (xs ys : List α) : twoEach f g (xs ++ ys) = twoEach f g xs ++ twoEach f g ys :=
  List.flatMap_append

@[simp] theorem length_twoEach (xs : List α) : (twoEach f g xs).length = 2 * xs.length := by
  induction xs with
  | nil => rfl
  | cons x xs ih => simp [ih, Nat.mul_add]

theorem getElem?_twoEach_even (xs : List α) (k : Nat) : (twoEach f g xs)[2 * k]? = xs[k]?.map f := by
  induction xs generalizing k with
  | nil => rfl
  | cons x xs ih =>
    cases k with
    | zero => rfl
    | succ k => exact ih k

theorem getElem?_twoEach_odd (xs : List α) (k : Nat) : (twoEach f g xs)[2 * k + 1]? = xs[k]?.map g := by
  induction xs generalizing k with
  | nil => rfl
  | cons x xs ih =>
    cases k with
    | zero => rfl
    | succ k => exact ih k

end

/-- The decoder reads the symbols two by two (43_decoder.md rules R241, R243). -/
theorem symbolPairs_twoEach {α : Type} (f g : α → Symbol) (xs : List α) :
    symbolPairs (twoEach f g xs) = xs.map fun x => (f x, g x) := by
  induction xs with
  | nil => rfl
  | cons x xs ih => exact congrArg _ ih

/-- The decoder reads the sub-bits two by two (43_decoder.md rule R244). -/
theorem pairDigits_twoEach {α : Type} (f g : α → SubBit) (xs : List α) :
    pairDigits (twoEach f g xs) = xs.map fun x => quat (f x) (g x) := by
  induction xs with
  | nil => rfl
  | cons x xs ih => exact congrArg _ ih

/-! ### The frame as symbols -/

/-- The duration the encoder sends for a symbol (00_scope.md rule R13). -/
def pulse (u : Pulses) : Symbol → Duration
  | .short => u.short
  | .long => u.long
  | .extraLong => u.extraLong
  | .megaLong => u.megaLong

/-- The symbol that stands after a Short for a sub-bit (30_encoding.md rule R102). -/
def bitSymbol : SubBit → Symbol
  | .zero => .short
  | .one => .long

/-- A digit's first sub-bit (30_encoding.md rule R103). -/
def firstBit (d : Digit) : SubBit := if d = 1 ∨ d = 3 then .one else .zero

/-- A digit's second sub-bit (30_encoding.md rule R103). -/
def secondBit (d : Digit) : SubBit := if d = 0 ∨ d = 3 then .one else .zero

/-- A message's sub-bits in the order sent. -/
def messageBits (ds : List Digit) : List SubBit := twoEach firstBit secondBit ds

/-- The symbols that tell sub-bits, and the end marker's. -/
def endedBits (bits : List SubBit) : List Symbol := bits.map bitSymbol ++ [.megaLong]

/-- The symbols at the odd indices of a frame: the start marker's, the sub-bits', the end marker's. -/
def oddSymbols (ds : List Digit) : List Symbol := .extraLong :: endedBits (messageBits ds)

/-- A frame's symbols: each odd one after a Short. -/
def frameSymbols (ds : List Digit) : List Symbol := twoEach (fun _ => .short) id (oddSymbols ds)

theorem quat_firstBit_secondBit (d : Digit) : quat (firstBit d) (secondBit d) = d := by
  revert d
  decide

theorem pairDigits_messageBits (ds : List Digit) : pairDigits (messageBits ds) = ds :=
  (pairDigits_twoEach firstBit secondBit ds).trans (List.map_id'' quat_firstBit_secondBit ds)

/-- A digit's pattern is its two sub-bits, each after a Short (30_encoding.md rule R106). -/
theorem digitPattern_eq_pulses (u : Pulses) (d : Digit) :
    digitPattern u d = [.short, bitSymbol (firstBit d), .short, bitSymbol (secondBit d)].map (pulse u) := by
  fin_cases d <;> rfl

/-- The encoder's output is the pulses of the frame's symbols (rule R281). -/
theorem encodeDigits_eq_pulses (u : Pulses) (ds : List Digit) :
    encodeDigits u ds = (frameSymbols ds).map (pulse u) := by
  have hbody : ds.flatMap (digitPattern u) =
      (twoEach (fun _ => .short) id ((messageBits ds).map bitSymbol)).map (pulse u) := by
    induction ds with
    | nil => rfl
    | cons d ds ih =>
      rw [List.flatMap_cons, ih, digitPattern_eq_pulses]
      rfl
  simp [encodeDigits, hbody, frameSymbols, oddSymbols, endedBits, startPair, endPair, pulse]

/-! ### What the decoder reads in a frame -/

section
variable {l : Literals} {p : Params}

/-- Each duration sent is classified as the symbol it is sent for (00_scope.md rule R13, 30_encoding.md rule R100). -/
theorem classify_pulse (h : Literals.Ok l) (y : Symbol) : classify l.bounds (pulse l.pulses y) = some y := by
  rw [classify_eq_some_iff (orderedBounds_of_ok h)]
  cases y with
  | short => exact h.shortInRange
  | long => exact h.longInRange
  | extraLong => exact h.extraLongInRange
  | megaLong => exact h.megaLongInRange

theorem classifyAll_pulses (h : Literals.Ok l) (ys : List Symbol) :
    classifyAll l.bounds (ys.map (pulse l.pulses)) = some ys := by
  induction ys with
  | nil => rfl
  | cons y ys ih => rw [List.map_cons, classifyAll, classify_pulse h, ih]

/-- The sub-bits up to the end marker are the ones sent (43_decoder.md rule R243). -/
theorem scanSubBits_endedBits (bits : List SubBit) :
    scanSubBits ((endedBits bits).map (Prod.mk .short)) = .ok bits := by
  induction bits with
  | nil => rfl
  | cons b bits ih =>
    have hb : pairMeaning (.short, bitSymbol b) = .subBit b := by cases b <;> rfl
    rw [endedBits, List.map_cons, List.cons_append, ← endedBits, List.map_cons, scanSubBits, hb, ih]

/-- The start marker is the first pair of a frame (43_decoder.md rule R241). -/
theorem findStart_frameSymbols (ds : List Digit) :
    findStart (symbolPairs (frameSymbols ds)) = some (0, (endedBits (messageBits ds)).map (Prod.mk .short)) := by
  rw [frameSymbols, symbolPairs_twoEach]
  rfl

theorem length_oddSymbols (ds : List Digit) : (oddSymbols ds).length = 2 + 2 * ds.length := by
  rw [oddSymbols, endedBits, messageBits, List.length_cons, List.length_append, List.length_map, length_twoEach,
    List.length_singleton]
  omega

/-- A frame's length (rule R282). -/
theorem length_encodeDigits (u : Pulses) (ds : List Digit) : (encodeDigits u ds).length = 4 + 4 * ds.length := by
  rw [encodeDigits_eq_pulses, List.length_map, frameSymbols, length_twoEach, length_oddSymbols]
  omega

/-- A frame that is long enough decodes to its message, unless a start marker at offset 0 is an error (rule R284). -/
theorem decodeFrame_encodeDigits (h : Literals.Ok p.toLiterals) {ds : List Digit} (hne : 1 ≤ ds.length) :
    decodeFrame p (encodeDigits p.pulses ds) =
      if p.startAtZeroIsError then .error .startMarkerNotFound else .message ds := by
  have hlen : ¬(encodeDigits p.pulses ds).length < p.decMinLen := by
    have := h.oneDigitDecodes
    rw [length_encodeDigits]
    omega
  rw [decodeFrame, if_neg hlen, encodeDigits_eq_pulses]
  simp only [classifyAll_pulses h, findStart_frameSymbols, scanSubBits_endedBits, pairDigits_messageBits, true_and]

end

/-! ### The durations at each index -/

section
variable {u : Pulses} {ds : List Digit} {k : Nat}

/-- Every even duration is the Short's (rule R282). -/
theorem getElem?_encodeDigits_even (hk : 2 * k < (encodeDigits u ds).length) :
    (encodeDigits u ds)[2 * k]? = some u.short := by
  have hodd : k < (oddSymbols ds).length := by
    rw [length_encodeDigits] at hk
    rw [length_oddSymbols]
    omega
  rw [encodeDigits_eq_pulses, List.getElem?_map, frameSymbols, getElem?_twoEach_even, List.getElem?_eq_getElem hodd]
  rfl

theorem getElem?_encodeDigits_odd :
    (encodeDigits u ds)[2 * k + 1]? = (oddSymbols ds)[k]?.map (pulse u) := by
  rw [encodeDigits_eq_pulses, List.getElem?_map, frameSymbols, getElem?_twoEach_odd, Option.map_id]
  rfl

theorem getElem?_oddSymbols_last : (oddSymbols ds)[1 + 2 * ds.length]? = some .megaLong := by
  have hlen : ((messageBits ds).map bitSymbol).length = 2 * ds.length := by simp [messageBits]
  rw [oddSymbols, endedBits, Nat.add_comm, List.getElem?_cons_succ, ← hlen, List.getElem?_concat_length]

theorem getElem?_oddSymbols_of_bit {b : SubBit} (h : (messageBits ds)[k]? = some b) :
    (oddSymbols ds)[k + 1]? = some (bitSymbol b) := by
  have hb : ((messageBits ds).map bitSymbol)[k]? = some (bitSymbol b) := by rw [List.getElem?_map, h]; rfl
  obtain ⟨hk, _⟩ := List.getElem?_eq_some_iff.mp hb
  rw [oddSymbols, endedBits, List.getElem?_cons_succ, List.getElem?_append_left hk, hb]

/-- The pulse that stands for a sub-bit (30_encoding.md rule R106). -/
theorem pulse_bitSymbol_ite (c : Prop) [Decidable c] :
    pulse u (bitSymbol (if c then .one else .zero)) = if c then u.long else u.short := by
  split <;> rfl

/-- The odd durations of a digit's pattern are those of its sub-bits (rule R282). -/
theorem getElem?_encodeDigits_digit {d : Digit} (h : ds[k]? = some d) :
    (encodeDigits u ds)[3 + 4 * k]? = some (if d = 1 ∨ d = 3 then u.long else u.short) ∧
      (encodeDigits u ds)[5 + 4 * k]? = some (if d = 0 ∨ d = 3 then u.long else u.short) := by
  have hfirst : (messageBits ds)[2 * k]? = some (firstBit d) := by
    rw [messageBits, getElem?_twoEach_even, h]; rfl
  have hsecond : (messageBits ds)[2 * k + 1]? = some (secondBit d) := by
    rw [messageBits, getElem?_twoEach_odd, h]; rfl
  rw [← pulse_bitSymbol_ite, ← pulse_bitSymbol_ite, show 3 + 4 * k = 2 * (2 * k + 1) + 1 by omega,
    show 5 + 4 * k = 2 * (2 * k + 1 + 1) + 1 by omega, getElem?_encodeDigits_odd, getElem?_encodeDigits_odd,
    getElem?_oddSymbols_of_bit hfirst, getElem?_oddSymbols_of_bit hsecond]
  exact ⟨rfl, rfl⟩

end

/-! ### The operands of ENC.ENCODE -/

/-- A character operand is the low byte of its element, and the element has no upper bits (30_encoding.md rule R117). -/
theorem eq_setWidth_char_iff {a : Word} {c : CharCode} :
    a = c.setWidth 64 ↔ a.toNat < 256 ∧ a.setWidth 8 = c := by
  rw [← operandChar_eq_some_iff, operandChar, Option.ite_none_right_eq_some, Option.some.injEq]

theorem eq_map_setWidth_char_iff {as : List Word} {cs : List CharCode} :
    (as = cs.map fun c => c.setWidth 64) ↔ (∀ w ∈ as, w.toNat < 256) ∧ (as.map fun w => w.setWidth 8) = cs := by
  induction as generalizing cs with
  | nil => cases cs <;> simp
  | cons a as ih =>
    cases cs with
    | nil => simp
    | cons c cs =>
      simp only [List.map_cons, List.cons.injEq, List.forall_mem_cons, eq_setWidth_char_iff, ih]
      tauto

/-- The port and ENC.ENCODE (30_encoding.md rules R112, R114, R117). -/
theorem portStep_encEncode {c : Command} {s : State} (hjoin : s.chan.joinPending = false)
    (hop : opField c = Opcode.encEncode.code.toNat) :
    portStep (.cmd c) s =
      if selField c = 0 ∧ c.a0 = 0 ∧ c.a1 = 0 ∧ c.payload.length ≤ s.params.encMaxDigits ∧
          ∀ w ∈ c.payload, w.toNat < 256 then
        exec (.encEncode (c.payload.map fun w => w.setWidth 8)) s
      else .next (illegal s) := by
  have hcode := op_eq_code hop
  refine portStep_eq_ite (accepts_iff.mpr (.inl hjoin)) fun j => ?_
  rw [decode, decodeCommand_of_op hcode, decodeOperands, encodeOperands_eq_ok_iff hcode]
  simp only [encode, cmd_eq_iff, hcode, true_and, sel_eq_zero_iff, encodeLegal, decide_eq_true_eq,
    eq_map_setWidth_char_iff]
  constructor
  · rintro ⟨_, hj, hlen, hsel, ha0, ha1, hchars, rfl⟩
    exact ⟨hj, hsel, ha0, ha1, by simpa using hlen, hchars⟩
  · rintro ⟨hj, hsel, ha0, ha1, hlen, hchars⟩
    exact ⟨_, hj, by simpa using hlen, hsel, ha0, ha1, hchars, rfl⟩

end Sys2Proof.Machine
end

section
/-! PROOFS of O51, O49, O50 and O52: the encoder, and the decoder on its output (44_encoder.md rules R280 to R284). -/

namespace Sys2Proof.Machine

open Sys2Proof Sys2Proof.Claims

/-- Settles O51: each digit is sent as its two sub-bits, which the decoder reads back and pairs. -/
theorem decodeOfEncodedDigitsIsTheMessage : Obligations.DecodeOfEncodedDigitsIsTheMessage :=
  ⟨config_literals_ok, fun _ ds hok hne => ⟨encodeChars_digitChars hok.charsFit ds, decodeFrame_encodeDigits hok hne⟩⟩

/-- Settles O49: the error is the first invalid character's index. -/
theorem encodeRejectsTheFirstInvalidCharacter : Obligations.EncodeRejectsTheFirstInvalidCharacter := by
  intro p cs i
  rw [encodeChars_eq_error_iff, firstInvalid_eq_some_iff]
  simp only [isDigitChar_eq_false_iff, isDigitChar_iff]

/-- Settles O50: the frame's length and its durations, the odd ones by their number among the odd. -/
theorem encodedFrameHasTheShapeOfR282 : Obligations.EncodedFrameHasTheShapeOfR282 := by
  refine ⟨rfl, fun p ds hok => ⟨encodeChars_digitChars hok.charsFit ds, length_encodeDigits _ _,
    fun _ hk => getElem?_encodeDigits_even hk, getElem?_encodeDigits_odd (k := 0), ?_,
    fun _ _ hd => getElem?_encodeDigits_digit hd⟩⟩
  rw [show 3 + 4 * ds.length = 2 * (1 + 2 * ds.length) + 1 by omega, getElem?_encodeDigits_odd,
    getElem?_oddSymbols_last]
  rfl

/-- Settles O52: the command's form, and the answer by what the encode function gives. -/
theorem encEncodeAnswersThePulseDurations : Obligations.EncEncodeAnswersThePulseDurations := by
  refine ⟨fun _ _ => portStep_encEncode, fun cs s hlen => ?_⟩
  rcases execEncEncode_cases cs s with ⟨out, _, hout, h⟩ | ⟨i, _, hi, h⟩ | ⟨hillegal, _⟩
  · refine ⟨fun _ hout' => ?_, fun _ hi' => ?_⟩
    · cases hout.symm.trans hout'
      exact h
    · cases hout.symm.trans hi'
  · refine ⟨fun _ hout' => ?_, fun _ hi' => ?_⟩
    · cases hi.symm.trans hout'
    · cases hi.symm.trans hi'
      exact h
  · exact absurd hlen (of_decide_eq_false hillegal)

end Sys2Proof.Machine
end

section
/-! LAWS. What DEC.SHUTDOWN and CLK.STOP end, part by part: the agents of what has ended are not enabled, no operation
removes a queued frame or adds a record, and CLK.START, which alone would clear the refresh task's flags, is refused on
a started clock (60_exceptions.md rule R318, 41_clock.md rules R151, R157, 43_decoder.md rule R235). -/

namespace Sys2Proof.Machine

open Sys2Proof

section
variable {s t : State} {i : Instr}

/-! ### The agents of what has ended -/

/-- An agent changes a field only where it may write the field and is enabled. -/
theorem agentStep_kept_of_not_enabled {a : AgentStep} {f : StateField}
    (h : f ∈ agentFootprint a → enabled a s = false) : f.Kept s (agentStep a s) := by
  rcases agentStep_cases a s with ⟨henabled, _⟩ | ⟨_, hs⟩
  · exact agentStep_writesOnly a s f fun hmem => absurd (henabled.symm.trans (h hmem)) (by decide)
  · rw [hs]
    exact WritesOnly.refl [] s f List.not_mem_nil

/-- A task that does not run has no step (41_clock.md rules R158, R159). -/
theorem not_enabled_of_refresh_ended {a : AgentStep} (h : s.clk.refreshRunning = false)
    (hmem : .refreshRunning ∈ agentFootprint a) : enabled a s = false := by
  cases a with
  | clkrTimeout | clkrWake => simp [enabled, h]
  | _ => simp [agentFootprint] at hmem

/-- The fields that the worker's steps alone write among the agents: its control state, and the two ends of its work. -/
abbrev workerFields : List StateField := [.worker, .queue, .res]

/-- An exited worker has no step (43_decoder.md rules R232 to R235). -/
theorem not_enabled_of_worker_exited {a : AgentStep} {f : StateField} (h : s.dec.worker = .exited)
    (hf : f ∈ workerFields) (hmem : f ∈ agentFootprint a) : enabled a s = false := by
  cases a with
  | workerWake | workerDecode | workerIdle | workerExit => simp [enabled, h]
  | clkrTimeout | clkrWake | joinDone =>
    exfalso
    revert f
    decide

/-! ### The queue, the result channel and the stop flag -/

theorem queue_appends_nothing (h : t.dec.queue = s.dec.queue) : ∃ es, t.dec.queue = s.dec.queue ++ es :=
  ⟨[], h.trans (List.append_nil _).symm⟩

theorem decEnqueue_appends (seq : List Duration) (t0 : Micros) (s : State) :
    ∃ es, (decEnqueue seq t0 s).dec.queue = s.dec.queue ++ es := by
  rcases decEnqueue_cases seq t0 s with ⟨_, _, h⟩ | ⟨_, _, _, h⟩ | ⟨_, _, _, h⟩ <;> rw [h]
  · exact queue_appends_nothing rfl
  · exact queue_appends_nothing rfl
  · exact ⟨_, rfl⟩

theorem frameEdge_appends (level : Level) (time : Micros) (s : State) :
    ∃ es, (frameEdge level time s).dec.queue = s.dec.queue ++ es := by
  rcases frameEdge_dec_cases level time s with h | ⟨_, _, _, h⟩
  · exact queue_appends_nothing (congrArg DecState.queue h)
  · rw [h]
    exact decEnqueue_appends _ _ s

/-- No operation removes a queued frame: DEC.SUBMIT and an edge at most append one. -/
theorem exec_appends (hx : exec i s = .next t) : ∃ es, t.dec.queue = s.dec.queue ++ es := by
  cases i with
  | decSubmit t0 seq =>
    rcases execDecSubmit_cases t0 seq s with ⟨_, ho⟩ | ⟨_, ho⟩
    · cases ho.symm.trans hx
      exact decEnqueue_appends seq t0 s
    · cases ho.symm.trans hx
      exact queue_appends_nothing rfl
  | edge level tick =>
    rcases execEdge_cases level tick s with ⟨_, ho⟩ | ⟨_, ho⟩
    · cases ho.symm.trans hx
      exact frameEdge_appends level (clkEdgeTime tick s) (sampleClock s)
    · cases ho.symm.trans hx
      exact queue_appends_nothing rfl
  | _ => exact queue_appends_nothing (exec_writesOnly hx .queue (by simp [footprint]))

/-- No operation adds a record: RES.POP removes one. -/
theorem exec_res_length_le (hx : exec i s = .next t) : t.chan.res.length ≤ s.chan.res.length := by
  cases i with
  | resPop =>
    rcases execResPop_cases s with ⟨_, ho⟩ | ⟨r, rest, hres, ho⟩
    · cases ho.symm.trans hx
      exact Nat.le_refl _
    · cases ho.symm.trans hx
      simp [hres]
  | _ =>
    have hkept : t.chan.res = s.chan.res := exec_writesOnly hx .res (by simp [footprint])
    rw [hkept]

/-- No operation moves the worker: it is an agent. -/
theorem exec_worker (hx : exec i s = .next t) : t.dec.worker = s.dec.worker :=
  exec_writesOnly hx .worker (by cases i <;> simp [footprint])

/-- DEC.SHUTDOWN sets the stop flag or leaves it, and no other operation writes it. -/
theorem exec_keeps_stop (hstop : s.dec.stop = true) (hx : exec i s = .next t) : t.dec.stop = true := by
  by_cases hwrites : .stop ∈ footprint i
  · obtain rfl := eq_decShutdown_of_stop_mem_footprint hwrites
    rcases execDecShutdown_cases s with ⟨_, ho⟩ | ⟨_, ho⟩
    · cases ho.symm.trans hx
      exact hstop
    · cases ho.symm.trans hx
      rfl
  · exact Eq.trans (exec_writesOnly hx .stop hwrites) hstop

/-! ### The refresh task -/

/-- On a started clock no operation starts or ends the task: CLK.START is refused. -/
theorem exec_refreshRunning_of_started (hstarted : s.clk.started = true) (hx : exec i s = .next t) :
    t.clk.refreshRunning = s.clk.refreshRunning := by
  cases i with
  | clkStart refTick =>
    rcases execClkStart_cases refTick s with ⟨_, ho⟩ | ⟨hstopped, _⟩
    · cases ho.symm.trans hx
      rfl
    · exact absurd (hstarted.symm.trans hstopped) (by decide)
  | _ => exact exec_writesOnly hx .refreshRunning (by simp [footprint])

/-- On a started clock CLK.STOP alone writes the task's stop flag, and sets it. -/
theorem exec_keeps_refreshStop (hstarted : s.clk.started = true) (hstop : s.clk.refreshStop = true)
    (hx : exec i s = .next t) : t.clk.refreshStop = true := by
  cases i with
  | clkStart refTick =>
    rcases execClkStart_cases refTick s with ⟨_, ho⟩ | ⟨hstopped, _⟩
    · cases ho.symm.trans hx
      exact hstop
    · exact absurd (hstarted.symm.trans hstopped) (by decide)
  | clkStop =>
    rcases execClkStop_cases s with ⟨_, ho⟩ | ⟨_, ho⟩
    · cases ho.symm.trans hx
      rfl
    · cases ho.symm.trans hx
      exact hstop
  | _ => exact Eq.trans (exec_writesOnly hx .refreshStop (by simp [footprint])) hstop

end

end Sys2Proof.Machine
end

section
/-! PROOFS of O57 and O55: what has ended stays ended, and the machine always goes on (60_exceptions.md rules R300,
R318). -/

namespace Sys2Proof.Machine

open Sys2Proof

/-- What has ended in `s` is still ended in `t`. -/
structure StaysEnded (s t : State) : Prop where
  stop : s.dec.stop = true → t.dec.stop = true
  exited : s.dec.worker = .exited → t.dec.worker = .exited
  noRecordAdded : s.dec.worker = .exited → t.chan.res.length ≤ s.chan.res.length
  noFrameRemoved : s.dec.worker = .exited → ∃ es, t.dec.queue = s.dec.queue ++ es
  refreshEnded : s.clk.started = true → s.clk.refreshRunning = false → t.clk.refreshRunning = false
  refreshStop : s.clk.started = true → s.clk.refreshStop = true → t.clk.refreshStop = true

section
variable {s t : State}

/-- An answer and the taking of a stimulus change none of what the clauses read. -/
theorem StaysEnded.of_unchanged (hclk : t.clk = s.clk) (hdec : t.dec = s.dec) (hres : t.chan.res = s.chan.res) :
    StaysEnded s t := by
  constructor <;> simp [hclk, hdec, hres]

/-- The stimulus is no field of the block's state. -/
theorem StaysEnded.of_takeStimulus (h : StaysEnded (takeStimulus s) t) : StaysEnded s t :=
  ⟨h.stop, h.exited, h.noRecordAdded, h.noFrameRemoved, h.refreshEnded, h.refreshStop⟩

theorem exec_staysEnded {i : Instr} (hx : exec i s = .next t) : StaysEnded s t where
  stop := fun hstop => exec_keeps_stop hstop hx
  exited := (exec_worker hx).trans
  noRecordAdded := fun _ => exec_res_length_le hx
  noFrameRemoved := fun _ => exec_appends hx
  refreshEnded := fun hstarted => (exec_refreshRunning_of_started hstarted hx).trans
  refreshStop := fun hstarted hstop => exec_keeps_refreshStop hstarted hstop hx

/-- No agent writes a stop flag, and the agents of what has ended hold. -/
theorem agentStep_staysEnded (a : AgentStep) (s : State) : StaysEnded s (agentStep a s) := by
  have hstop : (agentStep a s).dec.stop = s.dec.stop := agentStep_writesOnly a s .stop (by cases a <;> decide)
  have hrefresh : (agentStep a s).clk.refreshStop = s.clk.refreshStop :=
    agentStep_writesOnly a s .refreshStop (by cases a <;> decide)
  have kept (hexited : s.dec.worker = .exited) {f : StateField} (hf : f ∈ workerFields) : f.Kept s (agentStep a s) :=
    agentStep_kept_of_not_enabled (not_enabled_of_worker_exited hexited hf)
  refine ⟨hstop.trans, fun hexited => ?_, fun hexited => ?_, fun hexited => ?_, fun _ hended => ?_,
    fun _ => hrefresh.trans⟩
  · exact Eq.trans (kept hexited (f := .worker) (by decide)) hexited
  · exact Nat.le_of_eq (congrArg List.length (kept hexited (f := .res) (by decide)))
  · exact queue_appends_nothing (kept hexited (f := .queue) (by decide))
  · exact Eq.trans (agentStep_kept_of_not_enabled (f := .refreshRunning) (not_enabled_of_refresh_ended hended)) hended

/-- Reset alone starts again what has ended (60_exceptions.md rule R318). -/
theorem step_staysEnded (h : step s = .next t) (hreset : (nextStimulus s).action ≠ .reset) : StaysEnded s t := by
  rcases step_cases h with ⟨a, _, rfl⟩ | ⟨hact, _⟩ | ⟨p, _, _, rfl⟩ | ⟨p, why, _, _, _, rfl⟩ | ⟨p, i, _, _, _, hexec⟩
  · exact (agentStep_staysEnded a _).of_takeStimulus
  · exact absurd hact hreset
  · exact .of_unchanged rfl rfl rfl
  · exact .of_unchanged rfl rfl rfl
  · exact (exec_staysEnded hexec).of_takeStimulus

end

/-- Settles O57: the clauses of `StaysEnded`, which every step but reset has. -/
theorem permanentStopsLastUntilReset : Obligations.PermanentStopsLastUntilReset := by
  intro s t hstep hreset
  obtain ⟨hstop, hexited, hrecords, hframes, hended, hrefreshStop⟩ := step_staysEnded hstep hreset
  exact ⟨hstop, fun h => ⟨hexited h, hrecords h, hframes h⟩, hended, hrefreshStop⟩

/-- Every operation answers: the cases of its meaning are all next states, the error answers among them. -/
theorem exec_answers (i : Instr) (s : State) : ∃ t, exec i s = .next t := by
  cases i with
  | clkStart refTick => rcases execClkStart_cases refTick s with ⟨_, h⟩ | ⟨_, h⟩ <;> exact ⟨_, h⟩
  | clkNow => rcases execClkNow_cases s with ⟨_, h⟩ | ⟨_, h⟩ <;> exact ⟨_, h⟩
  | clkConv tick => rcases execClkConv_cases tick s with ⟨_, h⟩ | ⟨_, h⟩ <;> exact ⟨_, h⟩
  | clkStop => rcases execClkStop_cases s with ⟨_, h⟩ | ⟨_, h⟩ <;> exact ⟨_, h⟩
  | capStart => rcases execCapStart_cases s with ⟨_, h⟩ | ⟨_, h⟩ <;> exact ⟨_, h⟩
  | capStop => exact ⟨_, rfl⟩
  | cfgWr reg value => rcases execCfgWr_cases reg value s with ⟨_, h⟩ | ⟨_, h⟩ <;> exact ⟨_, h⟩
  | cfgRd reg => exact ⟨_, rfl⟩
  | decSubmit t0 seq => rcases execDecSubmit_cases t0 seq s with ⟨_, h⟩ | ⟨_, h⟩ <;> exact ⟨_, h⟩
  | decShutdown => rcases execDecShutdown_cases s with ⟨_, h⟩ | ⟨_, h⟩ <;> exact ⟨_, h⟩
  | encEncode chars =>
    rcases execEncEncode_cases chars s with ⟨_, _, _, h⟩ | ⟨_, _, _, h⟩ | ⟨_, h⟩ <;> exact ⟨_, h⟩
  | resPop => rcases execResPop_cases s with ⟨_, h⟩ | ⟨_, _, _, h⟩ <;> exact ⟨_, h⟩
  | edge level tick => rcases execEdge_cases level tick s with ⟨_, h⟩ | ⟨_, h⟩ <;> exact ⟨_, h⟩

/-- Settles O55: an agent and reset give a state outright, and a port holds, answers ILLEGAL or runs an operation. -/
theorem noStepStopsTheMachine : Obligations.NoStepStopsTheMachine := by
  refine ⟨exec_answers, fun s => ?_⟩
  cases hact : (nextStimulus s).action with
  | agent a => exact ⟨_, step_eq_of_agent hact⟩
  | reset => exact ⟨_, step_eq_of_reset hact⟩
  | port p =>
    rw [step_eq_of_port hact]
    rcases portStep_cases p (takeStimulus s) with ⟨_, h⟩ | ⟨_, _, _, h⟩ | ⟨i, _, _, h⟩
    · exact ⟨_, h⟩
    · exact ⟨_, h⟩
    · exact h ▸ exec_answers i _

end Sys2Proof.Machine
end

section
/-! LAWS. The groups of a block with given parameters right after reset, one value each (70_reset_and_hazards.md rule
R341), and what its computed registers read. -/

namespace Sys2Proof.Machine

open Sys2Proof

@[simp] theorem ofParams_clk (p : Params) : (State.ofParams p).clk = ⟨false, 0, 0, false, false, false⟩ := rfl
@[simp] theorem ofParams_cap (p : Params) : (State.ofParams p).cap = ⟨false, none, 0, none, []⟩ := rfl
@[simp] theorem ofParams_cfg (p : Params) :
    (State.ofParams p).cfg = ⟨p.defStartDur, p.defEndDur, p.defMinLen⟩ := rfl
@[simp] theorem ofParams_dec (p : Params) : (State.ofParams p).dec = ⟨[], false, false, .waiting, 0⟩ := rfl
@[simp] theorem ofParams_chan (p : Params) : (State.ofParams p).chan = ⟨[], false, none⟩ := rfl

/-- Of the five flags only the worker's is set: it waits, and has not exited (10_state.md rule R46). -/
@[simp] theorem statusWord_ofParams (p : Params) : statusWord (State.ofParams p) = 0x10 := by
  rw [statusWord, ofParams_clk, ofParams_cap, ofParams_dec]
  decide

@[simp] theorem qcountWord_ofParams (p : Params) : qcountWord (State.ofParams p) = 0 := by
  simp [qcountWord]

@[simp] theorem qdropWord_ofParams (p : Params) : qdropWord (State.ofParams p) = 0 := by
  simp [qdropWord]

end Sys2Proof.Machine
end

section
/-! PROOFS of O1, O2 and O23. The reset state is `State.ofParams` of the spec's parameters, and the reset event that of
the block's own (70_reset_and_hazards.md rules R340, R341); the refresh period is below the wraparound (rule R345). -/

namespace Sys2Proof.Machine

open Sys2Proof

/-- Settles O1: the groups of `State.ofParams` at the spec's defaults, and the computed registers over them. -/
theorem resetLeavesTheTableOfR341 : Obligations.ResetLeavesTheTableOfR341 := by
  have hchan : State.reset.chan = ⟨[], false, none⟩ := ofParams_chan _
  have hstatus : statusWord State.reset = 0x10 := statusWord_ofParams _
  have hqcount : qcountWord State.reset = 0 := qcountWord_ofParams _
  have hqdrop : qdropWord State.reset = 0 := qdropWord_ofParams _
  refine ⟨ofParams_clk _, ofParams_cap _, ofParams_cfg _, ofParams_dec _, ?_, ?_, ?_, ?_, ?_⟩
  · rw [hchan]
  · rw [hchan]
  · simp [readReg, hstatus]
  · simp [readReg, hqcount]
  · simp [readReg, hqdrop]

/-- Settles O2: the step is the reset event, and taking the stimulus has changed the environment alone. -/
theorem resetEventRestoresEveryField : Obligations.ResetEventRestoresEveryField := by
  intro s t hact hstep
  cases (step_eq_of_reset hact).symm.trans hstep
  rw [resetEvent_clk, resetEvent_cap, resetEvent_cfg, resetEvent_dec, resetEvent_chan, resetEvent_params,
    resetEvent_env, takeStimulus_params]
  exact ⟨ofParams_clk _, ofParams_cap _, ofParams_cfg _, ofParams_dec _, ofParams_chan _, rfl, rfl⟩

/-- Any period below the tick's modulus will do: the next sample comes within the period of the last one. -/
theorem singleWrap_of_refreshInTime {period before after : Nat} (hperiod : period < Config.tickMod)
    (hrefresh : refreshInTime period before after) : singleWrap before after := by
  obtain ⟨hordered, hwithin⟩ := hrefresh
  have hlt : after < before + Config.tickMod :=
    calc after ≤ before + period := hwithin
      _ < before + Config.tickMod := Nat.add_lt_add_left hperiod before
  exact ⟨hordered, hlt⟩

/-- Settles O23: the literals' relations put the refresh period below the wraparound. -/
theorem timelyRefreshKeepsTheSingleWrapPremise : Obligations.TimelyRefreshKeepsTheSingleWrapPremise :=
  fun _ _ _ hliterals => singleWrap_of_refreshInTime hliterals.refreshBeforeWrap

end Sys2Proof.Machine
end
